-- ==== Sys2Proof/Word.lean ====
section
/-! DEFINITION. The word types of the core: bytes, 16-bit words and 12-bit addresses. -/

namespace Sys2Proof

/-- A register, timer or memory byte (10_state.md R20, 20_memory.md R50): unsigned, 8 bits. -/
abbrev Byte := BitVec 8

/-- I, pc, a stack entry or an opcode word (10_state.md R23, R24, R26; 30_encoding.md R70): unsigned, 16 bits. -/
abbrev Word := BitVec 16

/-- The 12-bit address operand nnn (30_encoding.md R72). -/
abbrev Addr := BitVec 12

/-- A register or key number: "register indices are always exactly 4 bits" (10_state.md R20). -/
abbrev Idx := Fin 16

end Sys2Proof
end

