-- ==== Sys2Proof/Syntax.lean ====
section
/-! DEFINITION. The instructions: one constructor per row of opcode_table.json, in the order of 30_encoding.md R75. -/

namespace Sys2Proof

/-- The 34 instructions. `x`, `y` name general registers, `kk` a byte, `nnn` an address, `n` a row count
(30_encoding.md R71 to R73, R84). SHR and SHL keep their `y` field, "decoded but not used" (R71). -/
inductive Instr where
  | cls                              -- 00E0
  | ret                              -- 00EE
  | jp (nnn : Addr)                  -- 1nnn
  | call (nnn : Addr)                -- 2nnn
  | seByte (x : Idx) (kk : Byte)     -- 3xkk
  | sneByte (x : Idx) (kk : Byte)    -- 4xkk
  | seReg (x y : Idx)                -- 5xy0
  | ldByte (x : Idx) (kk : Byte)     -- 6xkk
  | addByte (x : Idx) (kk : Byte)    -- 7xkk
  | ldReg (x y : Idx)                -- 8xy0
  | orReg (x y : Idx)                -- 8xy1
  | andReg (x y : Idx)               -- 8xy2
  | xorReg (x y : Idx)               -- 8xy3
  | addReg (x y : Idx)               -- 8xy4
  | subReg (x y : Idx)               -- 8xy5
  | shr (x y : Idx)                  -- 8xy6
  | subnReg (x y : Idx)              -- 8xy7
  | shl (x y : Idx)                  -- 8xyE
  | sneReg (x y : Idx)               -- 9xy0
  | ldI (nnn : Addr)                 -- Annn
  | jpV0 (nnn : Addr)                -- Bnnn
  | rnd (x : Idx) (kk : Byte)        -- Cxkk
  | drw (x y : Idx) (n : Nat)        -- Dxyn
  | skp (x : Idx)                    -- Ex9E
  | sknp (x : Idx)                   -- ExA1
  | ldVxDt (x : Idx)                 -- Fx07
  | ldVxKey (x : Idx)                -- Fx0A
  | ldDtVx (x : Idx)                 -- Fx15
  | ldStVx (x : Idx)                 -- Fx18
  | addI (x : Idx)                   -- Fx1E
  | ldFont (x : Idx)                 -- Fx29
  | ldBcd (x : Idx)                  -- Fx33
  | dump (x : Idx)                   -- Fx55
  | load (x : Idx)                   -- Fx65
  deriving DecidableEq, Repr

end Sys2Proof
end

