-- ==== Sys2Proof/WellFormed.lean ====
section
/-! DEFINITION. Which terms of `Instr` are instructions. Register numbers, bytes and addresses are so by their types
(10_state.md R20: a register index "cannot go out of range"); the row count of DRW is a number, and is checked. -/

namespace Sys2Proof

/-- The row count of a sprite is "an unsigned 4-bit count (Dxyn rows, 0..15)" (30_encoding.md R73). -/
def rowCountOk (n : Nat) : Bool := decide (n < 16)

/-- An instruction of the core: every operand fits its field of the opcode word. -/
def Instr.wellFormed : Instr → Bool
  | .drw _ _ n => rowCountOk n
  | .cls | .ret | .jp _ | .call _ | .seByte _ _ | .sneByte _ _ | .seReg _ _ | .ldByte _ _ | .addByte _ _
  | .ldReg _ _ | .orReg _ _ | .andReg _ _ | .xorReg _ _ | .addReg _ _ | .subReg _ _ | .shr _ _ | .subnReg _ _
  | .shl _ _ | .sneReg _ _ | .ldI _ | .jpV0 _ | .rnd _ _ | .skp _ | .sknp _ | .ldVxDt _ | .ldVxKey _ | .ldDtVx _
  | .ldStVx _ | .addI _ | .ldFont _ | .ldBcd _ | .dump _ | .load _ => true

end Sys2Proof
end

