-- ==== Sys2Proof/Decode.lean ====
section
/-! DEFINITION. The decoder, by the two-level dispatch of 30_encoding.md R74 (total on any bytes, rejecting by name);
after it the encoder, and the opcode map of R75 as data. -/

namespace Sys2Proof

/-! ## Fields (30_encoding.md R72) -/

/-- `w[lo + len - 1 : lo]`, the unsigned field of `len` bits from bit `lo` up (00_scope.md R8). -/
def bits (w : Word) (lo len : Nat) : Nat := w.toNat / 2 ^ lo % 2 ^ len

/-- family = w[15:12]. -/
def fieldFamily (w : Word) : Nat := bits w 12 4

/-- x = w[11:8]. -/
def fieldX (w : Word) : Idx := Fin.ofNat 16 (bits w 8 4)

/-- y = w[7:4]. -/
def fieldY (w : Word) : Idx := Fin.ofNat 16 (bits w 4 4)

/-- n = w[3:0]. -/
def fieldN (w : Word) : Nat := bits w 0 4

/-- kk = w[7:0]. -/
def fieldKK (w : Word) : Byte := BitVec.ofNat 8 (bits w 0 8)

/-- nnn = w[11:0]. -/
def fieldNNN (w : Word) : Addr := BitVec.ofNat 12 (bits w 0 12)

/-! ## Decoding (30_encoding.md R74 to R77) -/

/-- Family 0x0 dispatches on the whole word; SYS nnn is not implemented (R77). -/
def decodeFamily0 (w : Word) : Option Instr :=
  match w.toNat with
  | 0x00E0 => some .cls
  | 0x00EE => some .ret
  | _ => none

/-- Family 0x8 dispatches on the low nibble. -/
def decodeFamily8 (w : Word) : Option Instr :=
  match fieldN w with
  | 0x0 => some (.ldReg (fieldX w) (fieldY w))
  | 0x1 => some (.orReg (fieldX w) (fieldY w))
  | 0x2 => some (.andReg (fieldX w) (fieldY w))
  | 0x3 => some (.xorReg (fieldX w) (fieldY w))
  | 0x4 => some (.addReg (fieldX w) (fieldY w))
  | 0x5 => some (.subReg (fieldX w) (fieldY w))
  | 0x6 => some (.shr (fieldX w) (fieldY w))
  | 0x7 => some (.subnReg (fieldX w) (fieldY w))
  | 0xE => some (.shl (fieldX w) (fieldY w))
  | _ => none

/-- Family 0xE dispatches on the low byte. -/
def decodeFamilyE (w : Word) : Option Instr :=
  match bits w 0 8 with
  | 0x9E => some (.skp (fieldX w))
  | 0xA1 => some (.sknp (fieldX w))
  | _ => none

/-- Family 0xF dispatches on the low byte. -/
def decodeFamilyF (w : Word) : Option Instr :=
  match bits w 0 8 with
  | 0x07 => some (.ldVxDt (fieldX w))
  | 0x0A => some (.ldVxKey (fieldX w))
  | 0x15 => some (.ldDtVx (fieldX w))
  | 0x18 => some (.ldStVx (fieldX w))
  | 0x1E => some (.addI (fieldX w))
  | 0x29 => some (.ldFont (fieldX w))
  | 0x33 => some (.ldBcd (fieldX w))
  | 0x55 => some (.dump (fieldX w))
  | 0x65 => some (.load (fieldX w))
  | _ => none

/-- The instruction an opcode word is, or `none` for a word of the illegal space (R76, R77). -/
def decode (w : Word) : Option Instr :=
  match fieldFamily w with
  | 0x0 => decodeFamily0 w
  | 0x1 => some (.jp (fieldNNN w))
  | 0x2 => some (.call (fieldNNN w))
  | 0x3 => some (.seByte (fieldX w) (fieldKK w))
  | 0x4 => some (.sneByte (fieldX w) (fieldKK w))
  | 0x5 => if fieldN w = 0 then some (.seReg (fieldX w) (fieldY w)) else none
  | 0x6 => some (.ldByte (fieldX w) (fieldKK w))
  | 0x7 => some (.addByte (fieldX w) (fieldKK w))
  | 0x8 => decodeFamily8 w
  | 0x9 => if fieldN w = 0 then some (.sneReg (fieldX w) (fieldY w)) else none
  | 0xA => some (.ldI (fieldNNN w))
  | 0xB => some (.jpV0 (fieldNNN w))
  | 0xC => some (.rnd (fieldX w) (fieldKK w))
  | 0xD => some (.drw (fieldX w) (fieldY w) (fieldN w))
  | 0xE => decodeFamilyE w
  | 0xF => decodeFamilyF w
  | _ => none

/-- The opcode word of two consecutive bytes, big-endian: `(hi << 8) | lo` (20_memory.md R58). -/
def wordOfBytes (hi lo : Byte) : Word := (hi.setWidth 16 <<< 8) ||| lo.setWidth 16

/-- Why the decoder gives no instruction. -/
inductive Reject where
  /-- Fewer than two bytes: no opcode word (30_encoding.md R70). -/
  | truncated
  /-- The word matches no row of the opcode map (30_encoding.md R77). -/
  | illegal (w : Word)
  deriving DecidableEq, Repr

/-- Decode the first instruction of a byte sequence: the instruction and the bytes after it, or a named rejection. -/
def decodeBytes : List Byte → Except Reject (Instr × List Byte)
  | hi :: lo :: rest =>
    match decode (wordOfBytes hi lo) with
    | some i => .ok (i, rest)
    | none => .error (.illegal (wordOfBytes hi lo))
  | _ => .error .truncated

/-- The two bytes of an opcode word as the hardware stores them, the high byte at the lower address (20_memory.md R58). -/
def bytesOfWord (w : Word) : List Byte := [BitVec.ofNat 8 (bits w 8 8), BitVec.ofNat 8 (bits w 0 8)]

/-- The instruction the decoder reads from a word of opcode_table.json of `nbits` bits: every row is one 16-bit word
(30_encoding.md R70), laid out as bytes and given to `decodeBytes`. -/
def decodeTableWord (nbits w : Nat) : Option Instr :=
  match decodeBytes (bytesOfWord (BitVec.ofNat 16 (w % 2 ^ nbits))) with
  | .ok (i, _) => some i
  | .error _ => none

/-! ## Encoding (30_encoding.md R71, R75) -/

/-- Format NNN: the family, then the 12-bit address. -/
def encNNN (op : Nat) (nnn : Addr) : Word := BitVec.ofNat 16 (op * 4096 + nnn.toNat)

/-- Format XKK: the family, x, then the byte. -/
def encXKK (op : Nat) (x : Idx) (kk : Byte) : Word := BitVec.ofNat 16 (op * 4096 + x.val * 256 + kk.toNat)

/-- Formats XYS and XYN: the family, x, y, then the low nibble (sub-op or row count). -/
def encXYN (op : Nat) (x y : Idx) (n : Nat) : Word :=
  BitVec.ofNat 16 (op * 4096 + x.val * 256 + y.val * 16 + n % 16)

/-- Format XSS: the family, x, then the sub-op byte. -/
def encXSS (op : Nat) (x : Idx) (sub : Nat) : Word := BitVec.ofNat 16 (op * 4096 + x.val * 256 + sub)

/-- The opcode word of an instruction (30_encoding.md R71, R75). -/
def encode : Instr → Word
  | .cls => 0x00E0#16
  | .ret => 0x00EE#16
  | .jp nnn => encNNN 0x1 nnn
  | .call nnn => encNNN 0x2 nnn
  | .seByte x kk => encXKK 0x3 x kk
  | .sneByte x kk => encXKK 0x4 x kk
  | .seReg x y => encXYN 0x5 x y 0x0
  | .ldByte x kk => encXKK 0x6 x kk
  | .addByte x kk => encXKK 0x7 x kk
  | .ldReg x y => encXYN 0x8 x y 0x0
  | .orReg x y => encXYN 0x8 x y 0x1
  | .andReg x y => encXYN 0x8 x y 0x2
  | .xorReg x y => encXYN 0x8 x y 0x3
  | .addReg x y => encXYN 0x8 x y 0x4
  | .subReg x y => encXYN 0x8 x y 0x5
  | .shr x y => encXYN 0x8 x y 0x6
  | .subnReg x y => encXYN 0x8 x y 0x7
  | .shl x y => encXYN 0x8 x y 0xE
  | .sneReg x y => encXYN 0x9 x y 0x0
  | .ldI nnn => encNNN 0xA nnn
  | .jpV0 nnn => encNNN 0xB nnn
  | .rnd x kk => encXKK 0xC x kk
  | .drw x y n => encXYN 0xD x y n
  | .skp x => encXSS 0xE x 0x9E
  | .sknp x => encXSS 0xE x 0xA1
  | .ldVxDt x => encXSS 0xF x 0x07
  | .ldVxKey x => encXSS 0xF x 0x0A
  | .ldDtVx x => encXSS 0xF x 0x15
  | .ldStVx x => encXSS 0xF x 0x18
  | .addI x => encXSS 0xF x 0x1E
  | .ldFont x => encXSS 0xF x 0x29
  | .ldBcd x => encXSS 0xF x 0x33
  | .dump x => encXSS 0xF x 0x55
  | .load x => encXSS 0xF x 0x65

/-! ## The opcode map as data (30_encoding.md R75) -/

/-- A row of the opcode map: a word `w` selects it when `w & mask = pattern`. -/
structure OpcodeRow where
  pattern : Word
  mask : Word
  deriving DecidableEq, Repr

/-- "A word selects a row when (w & mask) = match" (30_encoding.md R75). -/
def OpcodeRow.selects (r : OpcodeRow) (w : Word) : Bool := w &&& r.mask == r.pattern

/-- The row of each instruction, as 30_encoding.md R75 prints it. -/
def Instr.row : Instr → OpcodeRow
  | .cls => ⟨0x00E0, 0xFFFF⟩
  | .ret => ⟨0x00EE, 0xFFFF⟩
  | .jp _ => ⟨0x1000, 0xF000⟩
  | .call _ => ⟨0x2000, 0xF000⟩
  | .seByte _ _ => ⟨0x3000, 0xF000⟩
  | .sneByte _ _ => ⟨0x4000, 0xF000⟩
  | .seReg _ _ => ⟨0x5000, 0xF00F⟩
  | .ldByte _ _ => ⟨0x6000, 0xF000⟩
  | .addByte _ _ => ⟨0x7000, 0xF000⟩
  | .ldReg _ _ => ⟨0x8000, 0xF00F⟩
  | .orReg _ _ => ⟨0x8001, 0xF00F⟩
  | .andReg _ _ => ⟨0x8002, 0xF00F⟩
  | .xorReg _ _ => ⟨0x8003, 0xF00F⟩
  | .addReg _ _ => ⟨0x8004, 0xF00F⟩
  | .subReg _ _ => ⟨0x8005, 0xF00F⟩
  | .shr _ _ => ⟨0x8006, 0xF00F⟩
  | .subnReg _ _ => ⟨0x8007, 0xF00F⟩
  | .shl _ _ => ⟨0x800E, 0xF00F⟩
  | .sneReg _ _ => ⟨0x9000, 0xF00F⟩
  | .ldI _ => ⟨0xA000, 0xF000⟩
  | .jpV0 _ => ⟨0xB000, 0xF000⟩
  | .rnd _ _ => ⟨0xC000, 0xF000⟩
  | .drw _ _ _ => ⟨0xD000, 0xF000⟩
  | .skp _ => ⟨0xE09E, 0xF0FF⟩
  | .sknp _ => ⟨0xE0A1, 0xF0FF⟩
  | .ldVxDt _ => ⟨0xF007, 0xF0FF⟩
  | .ldVxKey _ => ⟨0xF00A, 0xF0FF⟩
  | .ldDtVx _ => ⟨0xF015, 0xF0FF⟩
  | .ldStVx _ => ⟨0xF018, 0xF0FF⟩
  | .addI _ => ⟨0xF01E, 0xF0FF⟩
  | .ldFont _ => ⟨0xF029, 0xF0FF⟩
  | .ldBcd _ => ⟨0xF033, 0xF0FF⟩
  | .dump _ => ⟨0xF055, 0xF0FF⟩
  | .load _ => ⟨0xF065, 0xF0FF⟩

/-- The 34 rows in the order of 30_encoding.md R75. -/
def opcodeMap : List OpcodeRow :=
  [⟨0x00E0, 0xFFFF⟩, ⟨0x00EE, 0xFFFF⟩, ⟨0x1000, 0xF000⟩, ⟨0x2000, 0xF000⟩, ⟨0x3000, 0xF000⟩, ⟨0x4000, 0xF000⟩,
    ⟨0x5000, 0xF00F⟩, ⟨0x6000, 0xF000⟩, ⟨0x7000, 0xF000⟩] ++
  [⟨0x8000, 0xF00F⟩, ⟨0x8001, 0xF00F⟩, ⟨0x8002, 0xF00F⟩, ⟨0x8003, 0xF00F⟩, ⟨0x8004, 0xF00F⟩, ⟨0x8005, 0xF00F⟩,
    ⟨0x8006, 0xF00F⟩, ⟨0x8007, 0xF00F⟩, ⟨0x800E, 0xF00F⟩] ++
  [⟨0x9000, 0xF00F⟩, ⟨0xA000, 0xF000⟩, ⟨0xB000, 0xF000⟩, ⟨0xC000, 0xF000⟩, ⟨0xD000, 0xF000⟩, ⟨0xE09E, 0xF0FF⟩,
    ⟨0xE0A1, 0xF0FF⟩] ++
  [⟨0xF007, 0xF0FF⟩, ⟨0xF00A, 0xF0FF⟩, ⟨0xF015, 0xF0FF⟩, ⟨0xF018, 0xF0FF⟩, ⟨0xF01E, 0xF0FF⟩, ⟨0xF029, 0xF0FF⟩,
    ⟨0xF033, 0xF0FF⟩, ⟨0xF055, 0xF0FF⟩, ⟨0xF065, 0xF0FF⟩]

end Sys2Proof
end

