-- ==== Sys2Proof/Config.lean ====
section
/-! DEFINITION. The sizes the spec fixes (00_scope.md R7) and the one free value of the core, the random byte. -/

namespace Sys2Proof.Config

/-- MEM_SIZE: addresses 0x000 to 0xFFF (20_memory.md R50). -/
@[simp] abbrev memSize : Nat := 4096

/-- LOAD_ADDR: where the program image is placed and where RESET sets pc (20_memory.md R55, 70_reset_and_hazards.md R250). -/
@[simp] abbrev loadAddr : Nat := 0x200

/-- MAX_IMAGE = MEM_SIZE - LOAD_ADDR (00_scope.md R7, 20_memory.md R55). -/
@[simp] abbrev maxImage : Nat := 3584

/-- STACK_DEPTH (10_state.md R26). -/
@[simp] abbrev stackDepth : Nat := 16

/-- The last address a fetch may start at: both bytes must lie in memory (30_encoding.md R81). -/
@[simp] abbrev lastFetch : Nat := 0xFFE

/-- The byte of the `n`-th draw from the random source. A FREE VALUE: it has no body, so nothing is known of it,
"not uniformity, and not independence from earlier draws" (60_exceptions.md R230; assumption 4). -/
opaque randomByte : Nat → Byte

end Sys2Proof.Config
end

