-- ==== Sys2Proof/Machine/Font.lean ====
section
/-! DEFINITION. The font region and the reset contents of memory (20_memory.md R51, R52, R54; 70_reset_and_hazards.md R250). -/

namespace Sys2Proof.Machine

/-- FONT_BASE, a parameter of the core, at the spec's default (20_memory.md R52, 92_eei_decisions.md D2).
DESIGN CHOICE, unsafe: assumption 5. -/
def fontBase : Nat := 0x000

/-- 16 glyphs of 5 bytes (20_memory.md R52). -/
@[simp] abbrev fontSize : Nat := 80

/-- FONT_DATA, a parameter of the core, at the spec's default, glyphs 0 to F (20_memory.md R54, 92_eei_decisions.md D3).
PRESUMED, unsafe: assumption 6. -/
def fontData : List Byte :=
  [0xF0, 0x90, 0x90, 0x90, 0xF0] ++
  [0x20, 0x60, 0x20, 0x20, 0x70] ++
  [0xF0, 0x10, 0xF0, 0x80, 0xF0] ++
  [0xF0, 0x10, 0xF0, 0x10, 0xF0] ++
  [0x90, 0x90, 0xF0, 0x10, 0x10] ++
  [0xF0, 0x80, 0xF0, 0x10, 0xF0] ++
  [0xF0, 0x80, 0xF0, 0x90, 0xF0] ++
  [0xF0, 0x10, 0x20, 0x40, 0x40] ++
  [0xF0, 0x90, 0xF0, 0x90, 0xF0] ++
  [0xF0, 0x90, 0xF0, 0x10, 0xF0] ++
  [0xF0, 0x90, 0xF0, 0x90, 0x90] ++
  [0xE0, 0x90, 0xE0, 0x90, 0xE0] ++
  [0xF0, 0x80, 0x80, 0x80, 0xF0] ++
  [0xE0, 0x90, 0x90, 0x90, 0xE0] ++
  [0xF0, 0x80, 0xF0, 0x80, 0xF0] ++
  [0xF0, 0x80, 0xF0, 0x80, 0x80]

/-- Address `a` lies in the font region FONT_BASE .. FONT_BASE + 79 (20_memory.md R52). -/
def inFont (a : Nat) : Bool := decide (fontBase ≤ a) && decide (a < fontBase + fontSize)

/-- What memory holds at `a` after RESET: FONT_DATA in the font region, 0x00 elsewhere (70_reset_and_hazards.md R250).
It is what an address that `Memory` does not list reads as (assumption 8). -/
def resetByte (a : Nat) : Byte := if inFont a then fontData.getD (a - fontBase) 0x00 else 0x00

end Sys2Proof.Machine
end

