-- ==== Sys2Proof/Machine/State.lean ====
section
/-! DEFINITION. The state of the core (10_state.md), as plain data, and the state after RESET (70_reset_and_hazards.md R250). -/

namespace Sys2Proof.Machine

/-- Memory (20_memory.md R50): the (address, byte) pairs that differ from the reset contents, addresses strictly rising.
An address it does not list reads as `resetByte`. -/
abbrev Memory := List Host.Cell

/-- The framebuffer fb[x][y]: 64 columns of 32 pixels, `true` is on (10_state.md R31). -/
abbrev Framebuffer := Vector (Vector Bool 32) 64

/-- The fault records {code, info} (60_exceptions.md R210, R211). -/
inductive FaultRecord where
  /-- Code 1, by LOAD: an image of `length` bytes does not fit. -/
  | loadFault (length : Nat)
  /-- Code 2, by STEP: the fetched word is no instruction. -/
  | decodeFault (pc0 opcode : Word)
  /-- Code 3, by CALL with a full stack. -/
  | stackOverflow (pc0 : Word) (sp : Nat)
  /-- Code 4, by RET with an empty stack. -/
  | stackUnderflow (pc0 : Word) (sp : Nat)
  /-- Code 5, by DRW, LD B, LD [I] and LD Vx,[I]: the range passes 0xFFF. -/
  | memRange (pc0 opcode : Word) (base len : Nat)
  /-- Code 6, by LD B and LD [I]: `addr` is the lowest address of the access inside the font region. -/
  | memReadonly (pc0 opcode : Word) (addr : Nat)
  /-- Code 7, by STEP: pc0 + 1 is outside memory. -/
  | fetchRange (pc0 : Word)
  deriving DecidableEq, Repr

/-- run_state (10_state.md R33). -/
inductive RunState where
  | running
  | faulted (r : FaultRecord)
  deriving DecidableEq, Repr

/-- The transactions the host may issue (60_exceptions.md R220). -/
inductive Transaction where
  /-- RESET (70_reset_and_hazards.md R250). -/
  | reset
  /-- LOAD of a program image (60_exceptions.md R224). -/
  | load (image : List Byte)
  /-- STEP (30_encoding.md R80). -/
  | step
  /-- TICK (60_exceptions.md R226). -/
  | tick
  /-- KEY(k, pressed) (60_exceptions.md R228). -/
  | key (k : Idx) (pressed : Bool)
  /-- FB_READ (60_exceptions.md R229). -/
  | fbRead
  deriving DecidableEq, Repr

/-- What a transaction answers to the host (60_exceptions.md R219, R220). -/
inductive Reply where
  /-- No result: RESET, TICK, KEY. -/
  | none
  /-- Ok: a STEP whose instruction completed, a LOAD that copied its image. -/
  | ok
  /-- Waiting: a STEP of LD Vx,K with no key pressed. -/
  | waiting
  /-- Fault(record), of a STEP or a LOAD. -/
  | fault (r : FaultRecord)
  /-- The framebuffer: FB_READ. -/
  | frame (fb : Framebuffer)
  deriving DecidableEq, Repr

/-- The state of the core: every element of the summary table of 10_state.md section 11, and two fields of the model's own. -/
structure State where
  /-- V0..VF (10_state.md R20, R21). -/
  v : Vector Byte 16
  /-- I (10_state.md R23). -/
  i : Word
  /-- pc (10_state.md R24). -/
  pc : Word
  /-- stack[0..15] (10_state.md R26). -/
  stack : Vector Word 16
  /-- sp, 0..16 (10_state.md R27; assumption 11). -/
  sp : Nat
  /-- DT (10_state.md R28). -/
  dt : Byte
  /-- ST (10_state.md R29). -/
  st : Byte
  /-- key[0..15] (10_state.md R30). -/
  keys : Vector Bool 16
  /-- fb[x][y] (10_state.md R31). -/
  fb : Framebuffer
  /-- The 4096 bytes of memory (20_memory.md R50). -/
  mem : Memory
  /-- run_state (10_state.md R33). -/
  runState : RunState
  /-- The model's own: how many random bytes have been drawn; the next one is `Config.randomByte draws` (assumption 4). -/
  draws : Nat
  /-- The model's own: the transactions the host issues next, a STEP when there are none (60_exceptions.md R221; assumption 3). -/
  schedule : List Transaction
  deriving DecidableEq, Repr

/-- Why the machine stops. -/
inductive Fault where
  /-- Raised by `step` when the core is Faulted and the host has nothing scheduled but STEPs: each of them "returns
  Fault(record) again and changes no state, until RESET" (60_exceptions.md R213). Safe: no state follows (assumption 2). -/
  | latched (r : FaultRecord)
  deriving DecidableEq, Repr

/-- Why the model gives no meaning. -/
inductive Refusal where
  /-- Raised by `exec` for an instruction without a meaning; no arm does. Safe: no state follows. -/
  | notModelled (mnemonic : String)
  deriving DecidableEq, Repr

/-- Every pixel off (70_reset_and_hazards.md R250, 43_display.md R170). -/
def Framebuffer.blank : Framebuffer := Vector.replicate 64 (Vector.replicate 32 false)

/-- The state after RESET, which is the state after construction (70_reset_and_hazards.md R250, R251).
`draws` and `schedule` are the model's own (assumptions 3 and 4: DESIGN CHOICE). -/
def State.reset : State where
  v := Vector.replicate 16 0x00
  i := 0x0000
  pc := 0x0200
  stack := Vector.replicate 16 0x0000
  sp := 0
  dt := 0x00
  st := 0x00
  keys := Vector.replicate 16 false
  fb := Framebuffer.blank
  mem := []
  runState := .running
  draws := 0
  schedule := []

end Sys2Proof.Machine
end

