-- ==== Sys2Proof/Machine/Ops.lean ====
section
/-! DEFINITION. The shared operations over memory, registers, stack and framebuffer, and taking a fault. -/

namespace Sys2Proof.Machine

/-! ## Memory (20_memory.md) -/

/-- `MemRead(a, 1)` (00_scope.md R9): a read has no side effect (20_memory.md R62). -/
def Memory.read : Memory → Nat → Byte
  | [], a => resetByte a
  | c :: m, a => if c.1 = a then c.2 else Memory.read m a

/-- List `b` at `a` in front of `m`, unless `a` reads as `b` unlisted. -/
def Memory.cons (a : Nat) (b : Byte) (m : Memory) : Memory := if b = resetByte a then m else (a, b) :: m

/-- `MemWrite(a, 1, b)` (00_scope.md R9): it changes only the addressed byte (20_memory.md R62). -/
def Memory.write (a : Nat) (b : Byte) : Memory → Memory
  | [] => Memory.cons a b []
  | c :: m =>
    if a < c.1 then Memory.cons a b (c :: m)
    else if a = c.1 then Memory.cons a b m
    else c :: Memory.write a b m

/-- The canonical form: addresses strictly rising and inside memory, no entry equal to what its address reads as unlisted. -/
abbrev Memory.wf (m : Memory) : Prop :=
  m.Pairwise (fun c d => c.1 < d.1) ∧ ∀ c ∈ m, c.1 < Config.memSize ∧ c.2 ≠ resetByte c.1

/-- One-byte writes at consecutive addresses from `a` (20_memory.md R57). -/
def Memory.writeBytes (a : Nat) : List Byte → Memory → Memory
  | [], m => m
  | b :: bs, m => Memory.writeBytes (a + 1) bs (m.write a b)

/-- One-byte reads of `len` consecutive addresses from `a` (20_memory.md R57). -/
def Memory.readBytes (m : Memory) (a : Nat) : Nat → List Byte
  | 0 => []
  | len + 1 => m.read a :: Memory.readBytes m (a + 1) len

/-! ## Registers (10_state.md R20 to R29) -/

/-- `V[x]`. -/
def State.reg (s : State) (x : Idx) : Byte := s.v[x.val]

/-- `V[x] <- b`. -/
def State.setReg (s : State) (x : Idx) (b : Byte) : State := { s with v := s.v.set x.val b }

/-- `VF <- b`, the flag output (10_state.md R21). -/
def State.setFlag (s : State) (b : Byte) : State := s.setReg 15 b

/-- `I <- w`. -/
def State.setI (s : State) (w : Word) : State := { s with i := w }

/-- `pc <- w`. -/
def State.setPc (s : State) (w : Word) : State := { s with pc := w }

/-- `DT <- b`. -/
def State.setDt (s : State) (b : Byte) : State := { s with dt := b }

/-- `ST <- b`. -/
def State.setSt (s : State) (b : Byte) : State := { s with st := b }

/-- Memory becomes `m`. -/
def State.setMem (s : State) (m : Memory) : State := { s with mem := m }

/-- The framebuffer becomes `fb`. -/
def State.setFb (s : State) (fb : Framebuffer) : State := { s with fb := fb }

/-- `key[k] <- pressed`. -/
def State.setKey (s : State) (k : Idx) (pressed : Bool) : State := { s with keys := s.keys.set k.val pressed }

/-- The host's next transactions become `ts`. -/
def State.setSchedule (s : State) (ts : List Transaction) : State := { s with schedule := ts }

/-- The default advance, `pc <- pc0 + 2` (30_encoding.md R82). -/
def State.advance (s : State) : State := s.setPc (s.pc + 2)

/-- `V[i] <- b` for consecutive registers from number `i` on (42_index_memory.md R154). -/
def setRegsFrom (i : Nat) : List Byte → Vector Byte 16 → Vector Byte 16
  | [], v => v
  | b :: bs, v => setRegsFrom (i + 1) bs (v.setIfInBounds i b)

/-- The general registers become `v`. -/
def State.setRegs (s : State) (v : Vector Byte 16) : State := { s with v := v }

/-! ## Call stack (10_state.md R26, R27) -/

/-- `stack[sp] <- w; sp <- sp + 1`. -/
def State.push (s : State) (w : Word) : State := { s with stack := s.stack.setIfInBounds s.sp w, sp := s.sp + 1 }

/-- The entry RET reads: `stack[sp - 1]`. -/
def State.top (s : State) : Word := (s.stack[s.sp - 1]?).getD 0x0000

/-- `sp <- sp - 1`; the popped entry keeps its value. -/
def State.pop (s : State) : State := { s with sp := s.sp - 1 }

/-! ## Random source (60_exceptions.md R230) -/

/-- The byte `draw_random()` yields next: a free value (assumption 4). -/
def State.nextRandom (s : State) : Byte := Config.randomByte s.draws

/-- One byte is consumed. -/
def State.consumeRandom (s : State) : State := { s with draws := s.draws + 1 }

/-! ## Keypad (44_keypad_timer.md R193) -/

/-- `key[k]`. -/
def State.pressed (s : State) (k : Idx) : Bool := s.keys[k.val]

/-- The least k with key[k] true, or `none` when no key is pressed (R193). -/
def State.leastPressed (s : State) : Option Idx := (List.finRange 16).find? s.pressed

/-! ## Framebuffer (43_display.md R171, R173) -/

/-- `fb[x][y]`. -/
def Framebuffer.pixel (fb : Framebuffer) (x : Fin 64) (y : Fin 32) : Bool := fb[x.val][y.val]

/-- `fb[x][y] <- not fb[x][y]`. -/
def Framebuffer.flip (fb : Framebuffer) (x : Fin 64) (y : Fin 32) : Framebuffer :=
  fb.set x.val (fb[x.val].set y.val (!fb.pixel x y))

/-- A framebuffer being drawn on, and the collision so far (R171). -/
structure Canvas where
  fb : Framebuffer
  collision : Bool
  deriving DecidableEq, Repr

/-- XOR a 1 bit onto pixel (x, y); a pixel that was on is a collision (R171). -/
def Canvas.xorOn (d : Canvas) (x : Fin 64) (y : Fin 32) : Canvas := ⟨d.fb.flip x y, d.collision || d.fb.pixel x y⟩

/-- Columns c, c + 1, .. (`cols` of them) of the row byte `b` at pixel row `py`: bit 7 - c goes to column
(x0 + c) mod 64 (R171, R173). -/
def Canvas.drawRow (x0 : Nat) (py : Fin 32) (b : Byte) (c : Nat) : Nat → Canvas → Canvas
  | 0, d => d
  | cols + 1, d =>
    Canvas.drawRow x0 py b (c + 1) cols (if b.getLsbD (7 - c) then d.xorOn (Fin.ofNat 64 (x0 + c)) py else d)

/-- The rows of a sprite from row `r` on: row r goes to pixel row (y0 + r) mod 32 (R171). -/
def Canvas.drawRows (x0 y0 r : Nat) : List Byte → Canvas → Canvas
  | [], d => d
  | b :: bs, d => Canvas.drawRows x0 y0 (r + 1) bs (d.drawRow x0 (Fin.ofNat 32 (y0 + r)) b 0 8)

/-- The sprite `rows` drawn at (x0, y0) of `fb` (R171). -/
def Framebuffer.draw (fb : Framebuffer) (x0 y0 : Nat) (rows : List Byte) : Canvas :=
  Canvas.drawRows x0 y0 0 rows ⟨fb, false⟩

/-! ## Faults (60_exceptions.md R210 to R217) -/

/-- The numeric code of a fault (R210). -/
def FaultRecord.code : FaultRecord → Nat
  | .loadFault _ => 1
  | .decodeFault _ _ => 2
  | .stackOverflow _ _ => 3
  | .stackUnderflow _ _ => 4
  | .memRange _ _ _ _ => 5
  | .memReadonly _ _ _ => 6
  | .fetchRange _ => 7

/-- The pc0 of a fault raised by a STEP; LOAD_FAULT has none (R211). -/
def FaultRecord.pc0 : FaultRecord → Option Word
  | .loadFault _ => none
  | .decodeFault p _ | .stackOverflow p _ | .stackUnderflow p _ | .memRange p _ _ _ | .memReadonly p _ _
  | .fetchRange p => some p

/-- TAKING A FAULT: the state is left as it was when the step began and run_state latches the record; there is no vector,
no saved pc and no mode (R212, R213, R216; assumption 1). -/
def State.raise (s : State) (r : FaultRecord) : State := { s with runState := .faulted r }

/-- THE RETURN FROM A FAULT: no instruction does it, only RESET does (R217). Every element takes its reset value
(70_reset_and_hazards.md R250); the random source is reseeded, so its next bytes are fresh draws: the count of draws goes
on (assumption 4), and so do the host's further transactions. -/
def State.resetCore (s : State) : State := { State.reset with draws := s.draws, schedule := s.schedule }

end Sys2Proof.Machine
end

