-- ==== Sys2Proof/Machine/Operands.lean ====
section
/-! DEFINITION. The operand forms: immediates, addresses through I, coordinates and key numbers. -/

namespace Sys2Proof.Machine

/-- `zext_16(nnn)` (30_encoding.md R73). -/
def addrWord (nnn : Addr) : Word := nnn.setWidth 16

/-- `zext_16(V[x])` (00_scope.md R8). -/
def byteWord (b : Byte) : Word := b.setWidth 16

/-- `base = I & 0x0FFF` (20_memory.md R61). -/
def State.base (s : State) : Nat := (s.i &&& 0x0FFF).toNat

/-- `base + len <= 0x1000`: the range of `len` bytes from `base` lies in memory (20_memory.md R61). -/
def rangeOk (base len : Nat) : Bool := decide (base + len ≤ Config.memSize)

/-- The lowest address of base .. base + len - 1 inside the font region, if there is one (20_memory.md R53,
60_exceptions.md R211). -/
def fontHit (base len : Nat) : Option Nat :=
  if 0 < len ∧ base < fontBase + fontSize ∧ fontBase < base + len then some (max base fontBase) else none

/-- The start column `V[x] mod 64` (43_display.md R171). -/
def startColumn (b : Byte) : Nat := b.toNat % 64

/-- The start row `V[y] mod 32` (43_display.md R171). -/
def startRow (b : Byte) : Nat := b.toNat % 32

/-- `k = V[x] & 0xF` (44_keypad_timer.md R190). -/
def keyIndex (b : Byte) : Idx := Fin.ofNat 16 (b &&& 0x0F).toNat

/-- The three decimal digits of a byte, hundreds first (42_index_memory.md R152). -/
def bcdDigits (b : Byte) : List Byte :=
  [BitVec.ofNat 8 (b.toNat / 100), BitVec.ofNat 8 (b.toNat / 10 % 10), BitVec.ofNat 8 (b.toNat % 10)]

/-- The registers V0 .. Vx, in order (42_index_memory.md R153). -/
def State.regsUpTo (s : State) (x : Idx) : List Byte := s.v.toList.take (x.val + 1)

/-- FONT_BASE + 5 * V[x], modulo 2^16 (43_display.md R172). -/
def fontAddr (b : Byte) : Word := BitVec.ofNat 16 (fontBase + 5 * b.toNat)

end Sys2Proof.Machine
end

