-- ==== Sys2Proof/Machine/Flags.lean ====
section
/-! DEFINITION. The flag values VF receives: carry, no borrow, the bit shifted out, collision (10_state.md R21). Each is
computed on naturals from the operands before any write (41_alu.md R132, R133). -/

namespace Sys2Proof.Machine

/-- A flag as a byte: 1 or 0. -/
def flagByte (b : Bool) : Byte := if b then 1 else 0

/-- VF of ADD: 1 if the sum exceeds 255 (41_alu.md R126). -/
def carryFlag (a b : Byte) : Byte := flagByte (decide (255 < a.toNat + b.toNat))

/-- VF of SUB and SUBN: 1 if `minuend - subtrahend` needs no borrow (41_alu.md R127, R129). -/
def noBorrowFlag (minuend subtrahend : Byte) : Byte := flagByte (decide (subtrahend.toNat ≤ minuend.toNat))

/-- VF of SHR: the old bit 0 (41_alu.md R128). -/
def shrFlag (a : Byte) : Byte := flagByte (a.getLsbD 0)

/-- VF of SHL: the old bit 7 (41_alu.md R130). -/
def shlFlag (a : Byte) : Byte := flagByte (a.getLsbD 7)

/-- Write the result to Vx, then the flag to VF: the flag comes last (41_alu.md R133). -/
def State.setRegThenFlag (s : State) (x : Idx) (result flag : Byte) : State := (s.setReg x result).setFlag flag

end Sys2Proof.Machine
end

