-- ==== Sys2Proof/Machine/ControlFlow.lean ====
section
/-! DEFINITION. The control-flow instructions (40_control_flow.md). They write pc themselves (30_encoding.md R83). -/

namespace Sys2Proof.Machine

/-- What a meaning answers. -/
abbrev Result := Host.Outcome State Fault Refusal

/-- A skip: pc0 + 4 when the condition holds, else pc0 + 2; the skipped word is not looked at (R108). -/
def State.skipIf (s : State) (c : Bool) : State := s.setPc (if c then s.pc + 4 else s.pc + 2)

/-- 00EE RET (R100). -/
def execRet (s : State) : Result :=
  if s.sp = 0 then .next (s.raise (.stackUnderflow s.pc s.sp)) else .next (s.pop.setPc s.top)

/-- 1nnn JP nnn (R101). -/
def execJp (nnn : Addr) (s : State) : Result := .next (s.setPc (addrWord nnn))

/-- 2nnn CALL nnn (R102): the pushed value is pc0 + 2. -/
def execCall (nnn : Addr) (s : State) : Result :=
  if Config.stackDepth ≤ s.sp then .next (s.raise (.stackOverflow s.pc s.sp))
  else .next ((s.push (s.pc + 2)).setPc (addrWord nnn))

/-- 3xkk SE Vx, kk (R103). -/
def execSeByte (x : Idx) (kk : Byte) (s : State) : Result := .next (s.skipIf (s.reg x == kk))

/-- 4xkk SNE Vx, kk (R104). -/
def execSneByte (x : Idx) (kk : Byte) (s : State) : Result := .next (s.skipIf (s.reg x != kk))

/-- 5xy0 SE Vx, Vy (R105). -/
def execSeReg (x y : Idx) (s : State) : Result := .next (s.skipIf (s.reg x == s.reg y))

/-- 9xy0 SNE Vx, Vy (R106). -/
def execSneReg (x y : Idx) (s : State) : Result := .next (s.skipIf (s.reg x != s.reg y))

/-- Bnnn JP V0, nnn (R107): always V0, the sum not masked. -/
def execJpV0 (nnn : Addr) (s : State) : Result := .next (s.setPc (byteWord (s.reg 0) + addrWord nnn))

end Sys2Proof.Machine
end

