-- ==== Sys2Proof/Machine/Alu.lean ====
section
/-! DEFINITION. The arithmetic, logic and random instructions (41_alu.md). Each completes and takes the default advance. -/

namespace Sys2Proof.Machine

/-- 6xkk LD Vx, kk (R120). -/
def execLdByte (x : Idx) (kk : Byte) (s : State) : Result := .next (s.setReg x kk).advance

/-- 7xkk ADD Vx, kk (R121): modulo 256, no flag. -/
def execAddByte (x : Idx) (kk : Byte) (s : State) : Result := .next (s.setReg x (s.reg x + kk)).advance

/-- 8xy0 LD Vx, Vy (R122). -/
def execLdReg (x y : Idx) (s : State) : Result := .next (s.setReg x (s.reg y)).advance

/-- 8xy1 OR Vx, Vy (R123): VF unchanged unless x = F. -/
def execOrReg (x y : Idx) (s : State) : Result := .next (s.setReg x (s.reg x ||| s.reg y)).advance

/-- 8xy2 AND Vx, Vy (R124): VF unchanged unless x = F. -/
def execAndReg (x y : Idx) (s : State) : Result := .next (s.setReg x (s.reg x &&& s.reg y)).advance

/-- 8xy3 XOR Vx, Vy (R125): VF unchanged unless x = F. -/
def execXorReg (x y : Idx) (s : State) : Result := .next (s.setReg x (s.reg x ^^^ s.reg y)).advance

/-- 8xy4 ADD Vx, Vy (R126): VF = carry. -/
def execAddReg (x y : Idx) (s : State) : Result :=
  .next (s.setRegThenFlag x (s.reg x + s.reg y) (carryFlag (s.reg x) (s.reg y))).advance

/-- 8xy5 SUB Vx, Vy (R127): VF = 1 when there is no borrow, equal operands among them. -/
def execSubReg (x y : Idx) (s : State) : Result :=
  .next (s.setRegThenFlag x (s.reg x - s.reg y) (noBorrowFlag (s.reg x) (s.reg y))).advance

/-- 8xy6 SHR Vx (R128): Vy is ignored. -/
def execShr (x _y : Idx) (s : State) : Result :=
  .next (s.setRegThenFlag x (s.reg x >>> 1) (shrFlag (s.reg x))).advance

/-- 8xy7 SUBN Vx, Vy (R129): Vy - Vx. -/
def execSubnReg (x y : Idx) (s : State) : Result :=
  .next (s.setRegThenFlag x (s.reg y - s.reg x) (noBorrowFlag (s.reg y) (s.reg x))).advance

/-- 8xyE SHL Vx (R130): Vy is ignored. -/
def execShl (x _y : Idx) (s : State) : Result :=
  .next (s.setRegThenFlag x (s.reg x <<< 1) (shlFlag (s.reg x))).advance

/-- Cxkk RND Vx, kk (R131): one byte of the random source is consumed whatever kk is. -/
def execRnd (x : Idx) (kk : Byte) (s : State) : Result :=
  .next (s.consumeRandom.setReg x (s.nextRandom &&& kk)).advance

end Sys2Proof.Machine
end

