-- ==== Sys2Proof/Machine/Display.lean ====
section
/-! DEFINITION. The display and sprite instructions (43_display.md). -/

namespace Sys2Proof.Machine

/-- 00E0 CLS (R170). -/
def execCls (s : State) : Result := .next (s.setFb Framebuffer.blank).advance

/-- What DRW leaves of the framebuffer, and its collision: the n bytes at I & 0x0FFF drawn at (Vx mod 64, Vy mod 32) (R171). -/
def State.drawn (s : State) (x y : Idx) (n : Nat) : Canvas :=
  s.fb.draw (startColumn (s.reg x)) (startRow (s.reg y)) (s.mem.readBytes s.base n)

/-- Dxyn DRW Vx, Vy, n (R171): the range check, then the pixels, then VF = collision, last. -/
def execDrw (x y : Idx) (n : Nat) (s : State) : Result :=
  if !rangeOk s.base n then .next (s.raise (.memRange s.pc (encode (.drw x y n)) s.base n))
  else .next ((s.setFb (s.drawn x y n).fb).setFlag (flagByte (s.drawn x y n).collision)).advance

/-- Fx29 LD F, Vx (R172): Vx is not masked. -/
def execLdFont (x : Idx) (s : State) : Result := .next (s.setI (fontAddr (s.reg x))).advance

end Sys2Proof.Machine
end

