-- ==== Sys2Proof/Machine/IndexMemory.lean ====
section
/-! DEFINITION. The index-register and memory instructions (42_index_memory.md). The checks come before any write
(60_exceptions.md R212, R214). -/

namespace Sys2Proof.Machine

/-- Annn LD I, nnn (R150). -/
def execLdI (nnn : Addr) (s : State) : Result := .next (s.setI (addrWord nnn)).advance

/-- Fx1E ADD I, Vx (R151): modulo 2^16, no flag. -/
def execAddI (x : Idx) (s : State) : Result := .next (s.setI (s.i + byteWord (s.reg x))).advance

/-- Store `bytes` from I & 0x0FFF on, by the instruction with the word `opcode`: MEM_RANGE, then MEM_READONLY, then the
writes and the default advance (R152, R153; 20_memory.md R53, R61). -/
def State.storeAtI (s : State) (opcode : Word) (bytes : List Byte) : State :=
  if !rangeOk s.base bytes.length then s.raise (.memRange s.pc opcode s.base bytes.length)
  else match fontHit s.base bytes.length with
    | some a => s.raise (.memReadonly s.pc opcode a)
    | none => (s.setMem (s.mem.writeBytes s.base bytes)).advance

/-- Fx33 LD B, Vx (R152). -/
def execLdBcd (x : Idx) (s : State) : Result := .next (s.storeAtI (encode (.ldBcd x)) (bcdDigits (s.reg x)))

/-- Fx55 LD [I], Vx (R153): I is unchanged. -/
def execDump (x : Idx) (s : State) : Result := .next (s.storeAtI (encode (.dump x)) (s.regsUpTo x))

/-- Fx65 LD Vx, [I] (R154): I is unchanged. -/
def execLoad (x : Idx) (s : State) : Result :=
  if !rangeOk s.base (x.val + 1) then .next (s.raise (.memRange s.pc (encode (.load x)) s.base (x.val + 1)))
  else .next (s.setRegs (setRegsFrom 0 (s.mem.readBytes s.base (x.val + 1)) s.v)).advance

end Sys2Proof.Machine
end

