-- ==== Sys2Proof/Machine/Keypad.lean ====
section
/-! DEFINITION. The keypad and timer instructions (44_keypad_timer.md). -/

namespace Sys2Proof.Machine

/-- Ex9E SKP Vx (R190). -/
def execSkp (x : Idx) (s : State) : Result := .next (s.skipIf (s.pressed (keyIndex (s.reg x))))

/-- ExA1 SKNP Vx (R191). -/
def execSknp (x : Idx) (s : State) : Result := .next (s.skipIf (!s.pressed (keyIndex (s.reg x))))

/-- Fx0A LD Vx, K (R192 to R194): with no key pressed the step waits, and changes no state at all. -/
def execLdVxKey (x : Idx) (s : State) : Result :=
  match s.leastPressed with
  | none => .next s
  | some k => .next (s.setReg x (BitVec.ofNat 8 k.val)).advance

/-- Fx07 LD Vx, DT (R195). -/
def execLdVxDt (x : Idx) (s : State) : Result := .next (s.setReg x s.dt).advance

/-- Fx15 LD DT, Vx (R196). -/
def execLdDtVx (x : Idx) (s : State) : Result := .next (s.setDt (s.reg x)).advance

/-- Fx18 LD ST, Vx (R197). -/
def execLdStVx (x : Idx) (s : State) : Result := .next (s.setSt (s.reg x)).advance

end Sys2Proof.Machine
end

