-- ==== Sys2Proof/Machine/Cycle.lean ====
section
/-! DEFINITION. The step cycle (30_encoding.md R79 to R82) and the host's transactions (60_exceptions.md section 3). -/

namespace Sys2Proof.Machine

/-! ## STEP -/

/-- The opcode word at pc: two bytes, big-endian (30_encoding.md R81, 20_memory.md R58). -/
def State.fetchWord (s : State) : Word := wordOfBytes (s.mem.read s.pc.toNat) (s.mem.read (s.pc.toNat + 1))

/-- Both bytes of a fetch at pc lie in memory: pc <= 0xFFE (30_encoding.md R81). -/
def State.fetchOk (s : State) : Bool := decide (s.pc.toNat ≤ Config.lastFetch)

/-- The STEP of a Running core: fetch, decode, execute; the faults in the order of 60_exceptions.md R214. -/
def State.runStep (s : State) : Result :=
  if !s.fetchOk then .next (s.raise (.fetchRange s.pc))
  else match decode s.fetchWord with
    | none => .next (s.raise (.decodeFault s.pc s.fetchWord))
    | some i => exec i s

/-- The STEP transaction (30_encoding.md R80) when the host has nothing else to issue: a Faulted core stays so for good
(60_exceptions.md R213; assumption 2). -/
def State.stepCore (s : State) : Result :=
  match s.runState with
  | .faulted r => .fault (.latched r)
  | .running => s.runStep

/-! ## The other transactions -/

/-- LOAD: copy the image to 0x200 on, or reject one that does not fit and write nothing (60_exceptions.md R224, R225). -/
def State.loadImage (s : State) (image : List Byte) : State :=
  if Config.maxImage < image.length then s.raise (.loadFault image.length)
  else s.setMem (s.mem.writeBytes Config.loadAddr image)

/-- A timer counts toward zero and stays there (60_exceptions.md R226). -/
def countDown (b : Byte) : Byte := if b = 0 then 0 else b - 1

/-- TICK: one count of both timers (60_exceptions.md R226). -/
def State.tick (s : State) : State := (s.setDt (countDown s.dt)).setSt (countDown s.st)

/-- SOUND, a level output (60_exceptions.md R231). -/
def State.sound (s : State) : Bool := s.st != 0

/-- One transaction of the host (60_exceptions.md R220). A STEP of a Faulted core changes nothing (R213); FB_READ only
reads (R229). -/
def State.transact (s : State) : Transaction → Result
  | .reset => .next s.resetCore
  | .load image => .next (s.loadImage image)
  | .step =>
    match s.runState with
    | .faulted _ => .next s
    | .running => s.runStep
  | .tick => .next s.tick
  | .key k pressed => .next (s.setKey k pressed)
  | .fbRead => .next s

/-! ## What the host is told -/

/-- The next STEP of a Running core waits: the word at pc is LD Vx, K and no key is pressed (44_keypad_timer.md R194). -/
def State.waits (s : State) : Bool :=
  s.fetchOk &&
    match decode s.fetchWord with
    | some (.ldVxKey _) => s.leastPressed.isNone
    | _ => false

/-- What a STEP answers: Fault(record) if the core is or becomes Faulted, Waiting, or Ok (60_exceptions.md R219). -/
def State.stepReply (s : State) : Reply :=
  match s.transact .step with
  | .next t =>
    match t.runState with
    | .faulted r => .fault r
    | .running => if s.waits then .waiting else .ok
  | .fault (.latched r) => .fault r
  | .refused _ => .none

/-- What a transaction issued in state `s` answers to the host (60_exceptions.md R219, R220, R224, R229). -/
def State.reply (s : State) : Transaction → Reply
  | .step => s.stepReply
  | .load image => if Config.maxImage < image.length then .fault (.loadFault image.length) else .ok
  | .fbRead => .frame s.fb
  | .reset | .tick | .key _ _ => .none

/-- The end of a run: run_state is Faulted, or the word at pc is 1nnn with nnn = pc (70_reset_and_hazards.md R259). -/
def State.endOfRun (s : State) : Bool :=
  match s.runState with
  | .faulted _ => true
  | .running => s.fetchOk && s.fetchWord == BitVec.ofNat 16 (0x1000 + s.pc.toNat)

/-! ## Placing an instruction to run next -/

/-- `s` with the opcode word `w` stored where the next STEP fetches, the core Running and the STEP the host's next
transaction; a pc from which nothing can be fetched goes to the load address (assumption 12). -/
def State.placeWord (s : State) (w : Word) : State :=
  let pc := if s.fetchOk then s.pc else 0x0200
  { s with
    pc := pc
    mem := s.mem.writeBytes pc.toNat (bytesOfWord w)
    runState := .running
    schedule := [] }

end Sys2Proof.Machine
end

