-- ==== Sys2Proof/Machine/Step.lean ====
section
/-! DEFINITION. One step of the machine: the next transaction of the host (60_exceptions.md R221). -/

namespace Sys2Proof.Machine

/-- The host's next transaction is performed, to completion, before the one after it; with none scheduled it is a STEP. -/
def step (s : State) : Host.Outcome State Fault Refusal :=
  match s.schedule with
  | [] => s.stepCore
  | t :: ts => (s.setSchedule ts).transact t

/-- `s` with the `nbits`-bit table word `w` placed so that the very next step fetches and runs it (assumption 12). -/
def State.withFetchWord (s : State) (nbits w : Nat) : State := s.placeWord (BitVec.ofNat 16 (w % 2 ^ nbits))

end Sys2Proof.Machine
end

