-- ==== Sys2Proof/Safety.lean ====
section
/-! DEFINITION. What claims about runs are stated in: the invariant of the core's state and what a safe state is. -/

namespace Sys2Proof.Machine

/-- What holds of every state a run from RESET reaches, whatever the host issues. -/
structure State.Inv (s : State) : Prop where
  /-- "sp never leaves 0..16" (10_state.md R27). -/
  sp_le : s.sp ≤ 16
  /-- A pushed pc0 + 2 is at most 0x1000, since a fetch needs pc0 <= 0xFFE (10_state.md R24, R25). -/
  stack_le : ∀ j : Fin 16, s.stack[j.val].toNat ≤ 0x1000
  /-- "The Bnnn target can reach 0x10FE", and nothing reaches further (10_state.md R25). -/
  pc_le : s.pc.toNat ≤ 0x10FE
  /-- Memory keeps its canonical form. -/
  mem_wf : s.mem.wf
  /-- The font region is "read-only thereafter" (20_memory.md R53). -/
  font_intact : ∀ a, inFont a = true → s.mem.read a = resetByte a
  /-- A fault of a STEP leaves pc at the pc0 of its record (60_exceptions.md R211, R212). -/
  fault_pc : ∀ r, s.runState = .faulted r → r.pc0 = none ∨ r.pc0 = some s.pc

/-- A safe state: the core runs, no fault is latched (60_exceptions.md R213). -/
def State.safe (s : State) : Bool := s.runState == .running

end Sys2Proof.Machine
end

