-- ==== Sys2Proof/Certificates/Slice0/Obligations.lean ====
section
/-! DEFINITION. The statements about the model, for the provers. A frame says what a step leaves unchanged; memory is
always compared by the read of one byte. A docstring names the spec's own decisions (92_eei_decisions.md D<n>) and the
log entries a statement rests on. -/

open Sys2Proof Sys2Proof.Machine

namespace Sys2Proof.Claims

/-! ## Frames: parts of the state a step leaves unchanged -/

/-- Every general register. -/
def KeepsRegs (s t : State) : Prop := ∀ y, t.reg y = s.reg y

/-- Every general register but Vx. -/
def KeepsRegsBut (x : Idx) (s t : State) : Prop := ∀ y, y ≠ x → t.reg y = s.reg y

/-- Every general register but Vx and VF. -/
def KeepsRegsButFlag (x : Idx) (s t : State) : Prop := ∀ y, y ≠ x → y ≠ 15 → t.reg y = s.reg y

/-- The call stack and its pointer. -/
def KeepsStack (s t : State) : Prop := t.stack = s.stack ∧ t.sp = s.sp

/-- Both timers. -/
def KeepsTimers (s t : State) : Prop := t.dt = s.dt ∧ t.st = s.st

/-- Every byte of memory. -/
def KeepsMemory (s t : State) : Prop := ∀ a, t.mem.read a = s.mem.read a

/-- The keypad latch, run_state, the random source and the host's further transactions. -/
def KeepsRest (s t : State) : Prop :=
  t.keys = s.keys ∧ t.runState = s.runState ∧ t.draws = s.draws ∧ t.schedule = s.schedule

/-- Everything but the general registers and pc. -/
def KeepsAllButRegsPc (s t : State) : Prop :=
  t.i = s.i ∧ KeepsStack s t ∧ KeepsTimers s t ∧ t.fb = s.fb ∧ KeepsMemory s t ∧ KeepsRest s t

/-- Everything but I and pc. -/
def KeepsAllButIndexPc (s t : State) : Prop :=
  KeepsRegs s t ∧ KeepsStack s t ∧ KeepsTimers s t ∧ t.fb = s.fb ∧ KeepsMemory s t ∧ KeepsRest s t

/-- Everything but pc. -/
def KeepsAllButPc (s t : State) : Prop := KeepsRegs s t ∧ KeepsAllButRegsPc s t

/-- Everything but memory and pc. -/
def KeepsAllButMemoryPc (s t : State) : Prop :=
  KeepsRegs s t ∧ t.i = s.i ∧ KeepsStack s t ∧ KeepsTimers s t ∧ t.fb = s.fb ∧ KeepsRest s t

/-- Everything but the framebuffer, VF and pc. -/
def KeepsAllButPixelsFlagPc (s t : State) : Prop :=
  KeepsRegsBut 15 s t ∧ t.i = s.i ∧ KeepsStack s t ∧ KeepsTimers s t ∧ KeepsMemory s t ∧ KeepsRest s t

/-- Instruction `i` completes in `s` in a state `t` with `P t`. -/
def Completes (i : Instr) (s : State) (P : State → Prop) : Prop := ∃ t, exec i s = .next t ∧ P t

/-- Instruction `i` raises the fault `r` in `s`: run_state latches it and nothing else changes. -/
def Raises (i : Instr) (s : State) (r : FaultRecord) : Prop := exec i s = .next { s with runState := .faulted r }

/-- A flag value: 1 or 0. -/
def flagOf (p : Prop) [Decidable p] : Byte := if p then 1 else 0

/-- The values of 70_reset_and_hazards.md R250. -/
def AtReset (t : State) : Prop :=
  (∀ x, t.reg x = 0) ∧ t.i = 0 ∧ t.pc = 0x0200 ∧ (∀ j : Fin 16, t.stack[j.val] = 0) ∧ t.sp = 0 ∧ t.dt = 0 ∧ t.st = 0 ∧
    (∀ k, t.pressed k = false) ∧ (∀ x y, t.fb.pixel x y = false) ∧
    (∀ k < 80, t.mem.read (fontBase + k) = fontData.getD k 0) ∧
    (∀ a < 0x1000, a < fontBase ∨ fontBase + 80 ≤ a → t.mem.read a = 0) ∧ t.runState = .running

/-- The illegal words, family by family (30_encoding.md R77). -/
def Illegal (w : Word) : Prop :=
  let family := w.toNat / 4096
  let low := w.toNat % 16
  let byte := w.toNat % 256
  (family = 0x0 ∧ w ≠ 0x00E0 ∧ w ≠ 0x00EE) ∨ (family = 0x5 ∧ low ≠ 0) ∨
    (family = 0x8 ∧ low ∈ [0x8, 0x9, 0xA, 0xB, 0xC, 0xD, 0xF]) ∨ (family = 0x9 ∧ low ≠ 0) ∨
    (family = 0xE ∧ byte ∉ [0x9E, 0xA1]) ∨
    (family = 0xF ∧ byte ∉ [0x07, 0x0A, 0x15, 0x18, 0x1E, 0x29, 0x33, 0x55, 0x65])

/-- The big-endian word of the two bytes at pc, as a number (20_memory.md R58, 30_encoding.md R81). -/
def wordAtPc (s : State) : Word :=
  BitVec.ofNat 16 ((s.mem.read s.pc.toNat).toNat * 256 + (s.mem.read (s.pc.toNat + 1)).toNat)

/-- The next thing the core does is a STEP: nothing is scheduled, or a STEP is next; `u` is the state it runs in. -/
def StepIsNext (s u : State) : Prop :=
  (s.schedule = [] ∧ u = s) ∨ ∃ ts, s.schedule = .step :: ts ∧ u = { s with schedule := ts }

end Sys2Proof.Claims

open Sys2Proof.Claims

/-! ## Reset and the invariant -/

/-- A RESET transaction leaves every element at its value of R250, from any state, faulted or not, and keeps the host's
further transactions. run_state is Running by D8; the font is the default of D2 and D3 (assumptions 5 and 6). -/
def Obligations.ResetSetsEveryElement : Prop :=
  ∀ s ts, s.schedule = .reset :: ts → ∃ t, step s = .next t ∧ AtReset t ∧ t.schedule = ts

/-- The state after construction has the values of R250 (R251; D8, and the font of assumptions 5 and 6). -/
def Obligations.ConstructedStateIsReset : Prop := AtReset State.reset

/-- The constructed state satisfies the invariant. -/
def Obligations.ResetStateSatisfiesInv : Prop := State.reset.Inv

/-- Every step, whatever the host's next transaction is, keeps the invariant: sp in 0..16, stack entries and pc bounded,
memory canonical, the font region intact, a fault's pc0 at pc (assumptions 5, 6, 8, 9 and 11). -/
def Obligations.StepKeepsInv : Prop := ∀ s t, s.Inv → step s = .next t → t.Inv

/-- Every state reached from RESET under any order of the host's transactions satisfies the invariant (the schedule is
assumption 3). -/
def Obligations.EveryReachedStateSatisfiesInv : Prop :=
  ∀ (ts : List Transaction) (k : Nat) (t : State),
    Sys2Proof.core.run k { State.reset with schedule := ts } = .next t → t.Inv

/-! ## Encoding -/

/-- Decoding the word of a well-formed instruction gives it back, with every operand. -/
def Obligations.DecodeOfEncode : Prop := ∀ i : Instr, i.wellFormed = true → decode (encode i) = some i

/-- A word that decodes is the word of its instruction, so the opcode in a fault record is the fetched word. -/
def Obligations.EncodeOfDecode : Prop := ∀ w i, decode w = some i → encode i = w

/-- What the decoder gives is well-formed. -/
def Obligations.DecodedInstrIsWellFormed : Prop := ∀ (w : Word) (i : Instr), decode w = some i → i.wellFormed = true

/-- A word is an instruction exactly when it selects a row of the opcode map, then one row only, and it is the row of the
instruction (R75, R76; the patterns are D39, assumption 7). -/
def Obligations.WordsSelectOneRowOrNone : Prop :=
  ∀ w, ((decode w).isSome = true ↔ ∃ r ∈ opcodeMap, r.selects w = true) ∧
    (∀ r ∈ opcodeMap, ∀ q ∈ opcodeMap, r.selects w = true → q.selects w = true → r = q) ∧
    (∀ i, decode w = some i → i.row ∈ opcodeMap ∧ i.row.selects w = true)

/-- The words without an instruction are those R77 lists (D9, D10, D39). -/
def Obligations.IllegalWordsAreThoseListed : Prop := ∀ w, decode w = none ↔ Illegal w

/-- Operands are cut from the word as R72 says: nnn the low 12 bits, kk the low byte, n the low nibble, x bits 11..8, y
bits 7..4. -/
def Obligations.OperandsAreTheWordsFields : Prop :=
  ∀ w : Word, ∀ (x y : Idx) (n : Nat) (kk : Byte) (nnn : Addr),
    ((decode w = some (.jp nnn) ∨ decode w = some (.call nnn) ∨ decode w = some (.ldI nnn) ∨
        decode w = some (.jpV0 nnn)) → nnn.toNat = w.toNat % 4096) ∧
      ((decode w = some (.seByte x kk) ∨ decode w = some (.sneByte x kk) ∨ decode w = some (.ldByte x kk) ∨
        decode w = some (.addByte x kk) ∨ decode w = some (.rnd x kk)) →
        x.val = w.toNat / 256 % 16 ∧ kk.toNat = w.toNat % 256) ∧
      ((decode w = some (.seReg x y) ∨ decode w = some (.sneReg x y) ∨ decode w = some (.ldReg x y) ∨
        decode w = some (.orReg x y) ∨ decode w = some (.andReg x y) ∨ decode w = some (.xorReg x y) ∨
        decode w = some (.addReg x y) ∨ decode w = some (.subReg x y) ∨ decode w = some (.shr x y) ∨
        decode w = some (.subnReg x y) ∨ decode w = some (.shl x y) ∨ decode w = some (.drw x y n)) →
        x.val = w.toNat / 256 % 16 ∧ y.val = w.toNat / 16 % 16) ∧
      (decode w = some (.drw x y n) → n = w.toNat % 16) ∧
      ((decode w = some (.skp x) ∨ decode w = some (.sknp x) ∨ decode w = some (.ldVxDt x) ∨
        decode w = some (.ldVxKey x) ∨ decode w = some (.ldDtVx x) ∨ decode w = some (.ldStVx x) ∨
        decode w = some (.addI x) ∨ decode w = some (.ldFont x) ∨ decode w = some (.ldBcd x) ∨
        decode w = some (.dump x) ∨ decode w = some (.load x)) → x.val = w.toNat / 256 % 16)

/-- Words written out bit by bit from R75's patterns decode to their instructions (D39, assumption 7). -/
def Obligations.WrittenOutWordsDecode : Prop :=
  decode 0b0000000011101110#16 = some .ret ∧ decode 0b0010101111001101#16 = some (.call 0xBCD) ∧
    decode 0b1000101010110100#16 = some (.addReg 0xA 0xB) ∧ decode 0b1101000100100101#16 = some (.drw 1 2 5) ∧
    decode 0b1111011100110011#16 = some (.ldBcd 7) ∧ decode 0b1110001010011110#16 = some (.skp 2) ∧
    decode 0b0101000000000001#16 = none

/-! ## The step cycle -/

/-- A STEP of a Running core fetches the big-endian word at pc, decodes it, and is the execution of that instruction. -/
def Obligations.StepRunsTheDecodedInstruction : Prop :=
  ∀ s u i, StepIsNext s u → s.runState = .running → s.pc.toNat ≤ 0xFFE → decode (wordAtPc s) = some i →
    step s = exec i u

/-- A STEP with pc above 0xFFE raises FETCH_RANGE and changes nothing else (D5, D6, D8). -/
def Obligations.FetchOutsideMemoryFaults : Prop :=
  ∀ s u, StepIsNext s u → s.runState = .running → 0xFFE < s.pc.toNat →
    step s = .next { u with runState := .faulted (.fetchRange s.pc) }

/-- A STEP that fetches an illegal word raises DECODE_FAULT with pc0 and the word, and changes nothing else: pc stays (R77;
the illegal words by D9, D10). -/
def Obligations.IllegalWordFaults : Prop :=
  ∀ s u, StepIsNext s u → s.runState = .running → s.pc.toNat ≤ 0xFFE → Illegal (wordAtPc s) →
    step s = .next { u with runState := .faulted (.decodeFault s.pc (wordAtPc s)) }

/-- A Faulted core: a STEP answers the same record again, TICK, KEY and FB_READ go on, a LOAD that fits writes memory, and
none of them clears the fault (R213, D8; with nothing else scheduled the machine stops, assumption 2). -/
def Obligations.FaultedCoreExecutesNothing : Prop :=
  ∀ s r, s.runState = .faulted r →
    (s.schedule = [] → step s = .fault (.latched r)) ∧
      (∀ ts, s.schedule = .step :: ts → step s = .next { s with schedule := ts } ∧ s.reply .step = .fault r) ∧
      (∀ ts, s.schedule = .fbRead :: ts → step s = .next { s with schedule := ts } ∧ s.reply .fbRead = .frame s.fb) ∧
      (∀ ts, s.schedule = .tick :: ts → ∃ t, step s = .next t ∧ t.runState = .faulted r ∧
        t.dt.toNat = s.dt.toNat - 1 ∧ t.st.toNat = s.st.toNat - 1) ∧
      (∀ k p ts, s.schedule = .key k p :: ts → ∃ t, step s = .next t ∧ t.runState = .faulted r ∧ t.pressed k = p) ∧
      (∀ image ts, s.schedule = .load image :: ts → image.length ≤ 3584 → s.mem.wf → ∃ t, step s = .next t ∧
        t.runState = .faulted r ∧ ∀ k < image.length, t.mem.read (0x200 + k) = image.getD k 0)

/-- "The only way back to Running is RESET" (R217). -/
def Obligations.OnlyResetLeavesFaulted : Prop :=
  ∀ s t r, s.runState = .faulted r → step s = .next t → t.runState = .running → ∃ ts, s.schedule = .reset :: ts

/-- A STEP that raises a fault leaves every element of Machine State as it was; only run_state changes (R212; D6). -/
def Obligations.FaultsArePrecise : Prop :=
  ∀ s u t r, StepIsNext s u → s.runState = .running → step s = .next t → t.runState = .faulted r →
    t = { u with runState := .faulted r }

/-- Which instruction raises which fault, when, with which record; no other instruction raises anything (R210, R211; the
codes and records are D7). -/
def Obligations.InstructionFaultsAreThoseListed : Prop :=
  ∀ i s t r, s.runState = .running → exec i s = .next t → t.runState = .faulted r →
    (i = .ret ∧ s.sp = 0 ∧ r = .stackUnderflow s.pc 0) ∨
      (∃ nnn, i = .call nnn ∧ 16 ≤ s.sp ∧ r = .stackOverflow s.pc s.sp) ∨
      (∃ x y n, i = .drw x y n ∧ 0x1000 < s.base + n ∧ r = .memRange s.pc (encode i) s.base n) ∨
      (∃ x len, (i = .ldBcd x ∧ len = 3 ∨ i = .dump x ∧ len = x.val + 1) ∧
        ((0x1000 < s.base + len ∧ r = .memRange s.pc (encode i) s.base len) ∨
          (s.base + len ≤ 0x1000 ∧ ∃ a, s.base ≤ a ∧ a < s.base + len ∧ inFont a = true ∧
            (∀ b, s.base ≤ b → b < a → inFont b = false) ∧ r = .memReadonly s.pc (encode i) a))) ∨
      (∃ x, i = .load x ∧ 0x1000 < s.base + (x.val + 1) ∧ r = .memRange s.pc (encode i) s.base (x.val + 1))

/-- Every instruction is available in every state: `exec` never stops the machine (R218; a fault is a next state,
assumption 1). -/
def Obligations.ExecAlwaysAnswersNext : Prop := ∀ i s, ∃ t, exec i s = .next t

/-- The machine stops only when the core is Faulted and the host has scheduled nothing but STEPs (R213; assumption 2). -/
def Obligations.StepStopsOnlyWhenLatched : Prop :=
  ∀ s, (∃ t, step s = .next t) ∨ ∃ r, s.runState = .faulted r ∧ s.schedule = [] ∧ step s = .fault (.latched r)

/-- "A STEP returns one of three outcomes" (R219): Ok with run_state still Running; Waiting, for LD Vx,K with no key
pressed, with no state changed; Fault with the record run_state then holds. That it returns exactly one of them is D6 and
D8, the latched record and its repetition D8 (assumption 15), and that a faulting STEP answers a next state assumption 1. -/
def Obligations.StepRepliesOkWaitingOrFault : Prop :=
  ∀ s, ∃ t, s.transact .step = .next t ∧
    ((s.reply .step = .ok ∧ t.runState = .running ∧
        ∃ i, decode (wordAtPc s) = some i ∧ exec i s = .next t ∧
          ¬((∃ x, i = .ldVxKey x) ∧ ∀ k, s.pressed k = false)) ∨
      (s.reply .step = .waiting ∧ t = s ∧ s.runState = .running ∧ (∃ x, decode (wordAtPc s) = some (.ldVxKey x)) ∧
        ∀ k, s.pressed k = false) ∨
      ∃ r, s.reply .step = .fault r ∧ t.runState = .faulted r)

/-! ## The host's transactions -/

/-- TICK counts both timers toward zero, never below, and changes nothing else, Running or Faulted (R226; D38). The sound
output stays on exactly when ST was above 1 (R231; D1). -/
def Obligations.TickCountsBothTimersDown : Prop :=
  ∀ s ts, s.schedule = .tick :: ts → ∃ t, step s = .next t ∧
    t.dt.toNat = s.dt.toNat - 1 ∧ t.st.toNat = s.st.toNat - 1 ∧ (t.sound = true ↔ 1 < s.st.toNat) ∧ KeepsRegs s t ∧
    t.i = s.i ∧ t.pc = s.pc ∧ KeepsStack s t ∧ t.fb = s.fb ∧ KeepsMemory s t ∧ t.keys = s.keys ∧ t.runState = s.runState ∧ t.draws = s.draws ∧
    t.schedule = ts

/-- KEY(k, pressed) sets key[k] and nothing else (R228; D32). -/
def Obligations.KeyWritesOneEntryOfTheLatch : Prop :=
  ∀ s k p ts, s.schedule = .key k p :: ts → ∃ t, step s = .next t ∧ t.pressed k = p ∧
    (∀ j, j ≠ k → t.pressed j = s.pressed j) ∧ KeepsRegs s t ∧ t.i = s.i ∧ t.pc = s.pc ∧ KeepsStack s t ∧
    KeepsTimers s t ∧ t.fb = s.fb ∧ KeepsMemory s t ∧ t.runState = s.runState ∧ t.draws = s.draws ∧ t.schedule = ts

/-- LOAD of at most 3584 bytes copies the image to 0x200 on; memory outside it and every other element stay (R224; D27). -/
def Obligations.LoadCopiesTheImage : Prop :=
  ∀ s image ts, s.schedule = .load image :: ts → image.length ≤ 3584 → s.mem.wf → ∃ t, step s = .next t ∧
    s.reply (.load image) = .ok ∧ (∀ k < image.length, t.mem.read (0x200 + k) = image.getD k 0) ∧
    (∀ a, a < 0x200 ∨ 0x200 + image.length ≤ a → t.mem.read a = s.mem.read a) ∧ KeepsRegs s t ∧ t.i = s.i ∧
    t.pc = s.pc ∧ KeepsStack s t ∧ KeepsTimers s t ∧ t.fb = s.fb ∧ t.keys = s.keys ∧ t.runState = s.runState ∧
    t.draws = s.draws ∧ t.schedule = ts

/-- LOAD of more than 3584 bytes writes nothing and latches LOAD_FAULT with the length (R224, R225; D27; on a core that is
already Faulted the record is replaced, assumption 9). -/
def Obligations.OversizedLoadIsRejected : Prop :=
  ∀ s image ts, s.schedule = .load image :: ts → 3584 < image.length →
    step s = .next { s with schedule := ts, runState := .faulted (.loadFault image.length) } ∧
      s.reply (.load image) = .fault (.loadFault image.length)

/-! ## Control flow -/

/-- RET (R100): the pc becomes the popped entry, which keeps its value (D22); an empty stack raises a fault that changes
nothing else and is latched (D6, D7, D8; assumptions 1 and 15). -/
def Obligations.RetPopsOrUnderflows : Prop :=
  ∀ s, (s.sp = 0 → Raises .ret s (.stackUnderflow s.pc 0)) ∧
    ∀ j : Fin 16, s.sp = j.val + 1 → Completes .ret s fun t =>
      t.sp = j.val ∧ t.pc = s.stack[j.val] ∧ t.stack = s.stack ∧ KeepsRegs s t ∧ t.i = s.i ∧ KeepsTimers s t ∧
        t.fb = s.fb ∧ KeepsMemory s t ∧ KeepsRest s t

/-- JP nnn (R101): the pc becomes nnn, zero-extended, and nothing else changes; the target is not checked (D5). -/
def Obligations.JpSetsPc : Prop :=
  ∀ (nnn : Addr) s, Completes (.jp nnn) s fun t => t.pc.toNat = nnn.toNat ∧ KeepsAllButPc s t

/-- CALL nnn (R102): pc0 + 2 is pushed as a 16-bit entry (D22) and the pc becomes nnn; a full stack raises a fault that
changes nothing else and is latched (D6, D7, D8; assumptions 1 and 15). -/
def Obligations.CallPushesOrOverflows : Prop :=
  ∀ (nnn : Addr) s, (s.sp = 16 → Raises (.call nnn) s (.stackOverflow s.pc 16)) ∧
    ∀ j : Fin 16, s.sp = j.val → Completes (.call nnn) s fun t =>
      t.pc.toNat = nnn.toNat ∧ t.sp = j.val + 1 ∧ t.stack[j.val] = s.pc + 2 ∧
        (∀ k : Fin 16, k ≠ j → t.stack[k.val] = s.stack[k.val]) ∧ KeepsRegs s t ∧ t.i = s.i ∧ KeepsTimers s t ∧
        t.fb = s.fb ∧ KeepsMemory s t ∧ KeepsRest s t

/-- SE Vx,kk and SNE Vx,kk (R103, R104), SE Vx,Vy and SNE Vx,Vy (R105, R106): pc0 + 4 when the condition holds, pc0 + 2
otherwise, and nothing else changes. -/
def Obligations.SkipsAdvanceByFourOrTwo : Prop :=
  ∀ (x y : Idx) (kk : Byte) s,
    (Completes (.seByte x kk) s fun t => t.pc = (if s.reg x = kk then s.pc + 4 else s.pc + 2) ∧ KeepsAllButPc s t) ∧
      (Completes (.sneByte x kk) s fun t => t.pc = (if s.reg x = kk then s.pc + 2 else s.pc + 4) ∧ KeepsAllButPc s t) ∧
      (Completes (.seReg x y) s fun t =>
        t.pc = (if s.reg x = s.reg y then s.pc + 4 else s.pc + 2) ∧ KeepsAllButPc s t) ∧
      (Completes (.sneReg x y) s fun t =>
        t.pc = (if s.reg x = s.reg y then s.pc + 2 else s.pc + 4) ∧ KeepsAllButPc s t)

/-- JP V0,nnn (R107): the pc becomes V0 + nnn, always V0 and unmasked (D20). -/
def Obligations.JpV0AddsV0Unmasked : Prop :=
  ∀ (nnn : Addr) s, Completes (.jpV0 nnn) s fun t =>
    t.pc.toNat = (s.reg 0).toNat + nnn.toNat ∧ KeepsAllButPc s t

/-! ## Arithmetic, logic, random -/

/-- LD Vx,kk (R120) and ADD Vx,kk (R121): the new Vx, modulo 256, no flag, and nothing else changes but pc. -/
def Obligations.ImmediateLoadAndAdd : Prop :=
  ∀ (x : Idx) (kk : Byte) s,
    (Completes (.ldByte x kk) s fun t =>
      t.reg x = kk ∧ KeepsRegsBut x s t ∧ t.pc = s.pc + 2 ∧ KeepsAllButRegsPc s t) ∧
      (Completes (.addByte x kk) s fun t =>
        (t.reg x).toNat = ((s.reg x).toNat + kk.toNat) % 256 ∧ KeepsRegsBut x s t ∧ t.pc = s.pc + 2 ∧
          KeepsAllButRegsPc s t)

/-- LD Vx,Vy, OR, AND and XOR (R122 to R125): the new Vx; VF is unchanged unless x = F (D11). -/
def Obligations.CopyAndLogicWriteOnlyVx : Prop :=
  ∀ (x y : Idx) s,
    (Completes (.ldReg x y) s fun t =>
      t.reg x = s.reg y ∧ KeepsRegsBut x s t ∧ t.pc = s.pc + 2 ∧ KeepsAllButRegsPc s t) ∧
      (Completes (.orReg x y) s fun t =>
        t.reg x = s.reg x ||| s.reg y ∧ KeepsRegsBut x s t ∧ t.pc = s.pc + 2 ∧ KeepsAllButRegsPc s t) ∧
      (Completes (.andReg x y) s fun t =>
        t.reg x = s.reg x &&& s.reg y ∧ KeepsRegsBut x s t ∧ t.pc = s.pc + 2 ∧ KeepsAllButRegsPc s t) ∧
      (Completes (.xorReg x y) s fun t =>
        t.reg x = s.reg x ^^^ s.reg y ∧ KeepsRegsBut x s t ∧ t.pc = s.pc + 2 ∧ KeepsAllButRegsPc s t)

/-- ADD Vx,Vy (R126): the sum modulo 256 in Vx unless x = F, and the carry in VF, from the old operands (R133). -/
def Obligations.AddWritesSumThenCarry : Prop :=
  ∀ (x y : Idx) s, Completes (.addReg x y) s fun t =>
    t.reg 15 = flagOf ((s.reg x).toNat + (s.reg y).toNat > 255) ∧
      (x ≠ 15 → (t.reg x).toNat = ((s.reg x).toNat + (s.reg y).toNat) % 256) ∧ KeepsRegsButFlag x s t ∧
      t.pc = s.pc + 2 ∧ KeepsAllButRegsPc s t

/-- SUB (R127) and SUBN (R129): the difference modulo 256 in Vx unless x = F, and VF = 1 exactly when there is no borrow,
equal operands included (D12), from the old operands. -/
def Obligations.SubtractionsWriteDifferenceThenNoBorrow : Prop :=
  ∀ (x y : Idx) s,
    (Completes (.subReg x y) s fun t =>
      t.reg 15 = flagOf ((s.reg y).toNat ≤ (s.reg x).toNat) ∧
        (x ≠ 15 → (t.reg x).toNat = (256 + (s.reg x).toNat - (s.reg y).toNat) % 256) ∧ KeepsRegsButFlag x s t ∧
        t.pc = s.pc + 2 ∧ KeepsAllButRegsPc s t) ∧
      Completes (.subnReg x y) s fun t =>
        t.reg 15 = flagOf ((s.reg x).toNat ≤ (s.reg y).toNat) ∧
          (x ≠ 15 → (t.reg x).toNat = (256 + (s.reg y).toNat - (s.reg x).toNat) % 256) ∧ KeepsRegsButFlag x s t ∧
          t.pc = s.pc + 2 ∧ KeepsAllButRegsPc s t

/-- SHR (R128) and SHL (R130) shift Vx by one and ignore Vy (D13); VF is the old bit shifted out. -/
def Obligations.ShiftsWriteTheBitShiftedOut : Prop :=
  ∀ (x y : Idx) s,
    (Completes (.shr x y) s fun t =>
      (t.reg 15).toNat = (s.reg x).toNat % 2 ∧ (x ≠ 15 → (t.reg x).toNat = (s.reg x).toNat / 2) ∧
        KeepsRegsButFlag x s t ∧ t.pc = s.pc + 2 ∧ KeepsAllButRegsPc s t) ∧
      Completes (.shl x y) s fun t =>
        (t.reg 15).toNat = (s.reg x).toNat / 128 ∧ (x ≠ 15 → (t.reg x).toNat = (s.reg x).toNat * 2 % 256) ∧
          KeepsRegsButFlag x s t ∧ t.pc = s.pc + 2 ∧ KeepsAllButRegsPc s t

/-- RND (R131): Vx is a free byte AND kk, and exactly one byte is consumed (D26). `Config.randomByte` has no value, so this
holds for every value of the byte (assumption 4). -/
def Obligations.RndMasksOneFreeByte : Prop :=
  ∀ (x : Idx) (kk : Byte) s, Completes (.rnd x kk) s fun t =>
    t.reg x = Config.randomByte s.draws &&& kk ∧ t.draws = s.draws + 1 ∧ KeepsRegsBut x s t ∧ t.pc = s.pc + 2 ∧
      t.i = s.i ∧ KeepsStack s t ∧ KeepsTimers s t ∧ t.fb = s.fb ∧ KeepsMemory s t ∧ t.keys = s.keys ∧
      t.runState = s.runState ∧ t.schedule = s.schedule

/-! ## Index and memory -/

/-- LD I,nnn (R150): I becomes nnn, zero-extended. -/
def Obligations.LdISetsIndex : Prop :=
  ∀ (nnn : Addr) s, Completes (.ldI nnn) s fun t =>
    t.i.toNat = nnn.toNat ∧ t.pc = s.pc + 2 ∧ KeepsAllButIndexPc s t

/-- ADD I,Vx (R151): modulo 2^16, VF unchanged (D19); LD F,Vx (R172): FONT_BASE + 5*Vx, Vx unmasked
(D21; FONT_BASE is assumption 5). -/
def Obligations.IndexAddAndFontAddress : Prop :=
  ∀ (x : Idx) s,
    (Completes (.addI x) s fun t =>
      t.i.toNat = (s.i.toNat + (s.reg x).toNat) % 65536 ∧ t.pc = s.pc + 2 ∧ KeepsAllButIndexPc s t) ∧
      Completes (.ldFont x) s fun t =>
        t.i.toNat = (fontBase + 5 * (s.reg x).toNat) % 65536 ∧ t.pc = s.pc + 2 ∧ KeepsAllButIndexPc s t

/-- LD B,Vx (R152): the three digits, hundreds first (D31), at base .. base + 2 when these are memory outside the font
region; every other byte, and I, stay (D18). -/
def Obligations.BcdStoresThreeDigits : Prop :=
  ∀ (x : Idx) s, s.mem.wf → s.base + 3 ≤ 0x1000 → (∀ a, s.base ≤ a → a < s.base + 3 → inFont a = false) →
    Completes (.ldBcd x) s fun t =>
      (t.mem.read s.base).toNat = (s.reg x).toNat / 100 ∧
        (t.mem.read (s.base + 1)).toNat = (s.reg x).toNat / 10 % 10 ∧
        (t.mem.read (s.base + 2)).toNat = (s.reg x).toNat % 10 ∧
        (∀ a, a < s.base ∨ s.base + 3 ≤ a → t.mem.read a = s.mem.read a) ∧ t.pc = s.pc + 2 ∧ KeepsAllButMemoryPc s t

/-- LD [I],Vx (R153): V0 .. Vx at base .. base + x when these are memory outside the font region; every other byte, and I,
stay (D18). -/
def Obligations.DumpStoresTheRegisters : Prop :=
  ∀ (x : Idx) s, s.mem.wf → s.base + (x.val + 1) ≤ 0x1000 →
    (∀ a, s.base ≤ a → a < s.base + (x.val + 1) → inFont a = false) →
    Completes (.dump x) s fun t =>
      (∀ y : Idx, y.val ≤ x.val → t.mem.read (s.base + y.val) = s.reg y) ∧
        (∀ a, a < s.base ∨ s.base + (x.val + 1) ≤ a → t.mem.read a = s.mem.read a) ∧ t.pc = s.pc + 2 ∧
        KeepsAllButMemoryPc s t

/-- LD Vx,[I] (R154): V0 .. Vx from base .. base + x, the registers above Vx and I unchanged (D18). -/
def Obligations.LoadReadsTheRegisters : Prop :=
  ∀ (x : Idx) s, s.base + (x.val + 1) ≤ 0x1000 → Completes (.load x) s fun t =>
    (∀ y : Idx, y.val ≤ x.val → t.reg y = s.mem.read (s.base + y.val)) ∧
      (∀ y : Idx, x.val < y.val → t.reg y = s.reg y) ∧ t.pc = s.pc + 2 ∧ KeepsAllButRegsPc s t

/-- The base is I masked to 12 bits, and a range that passes 0xFFF raises MEM_RANGE before anything is written (R61; D17):
DRW with n bytes, LD B with 3, LD [I] and LD Vx,[I] with x + 1. -/
def Obligations.RangesPastTheTopFault : Prop :=
  ∀ (x y : Idx) (n : Nat) s, s.base = s.i.toNat % 4096 ∧
    (0x1000 < s.base + n → Raises (.drw x y n) s (.memRange s.pc (encode (.drw x y n)) s.base n)) ∧
    (0x1000 < s.base + 3 → Raises (.ldBcd x) s (.memRange s.pc (encode (.ldBcd x)) s.base 3)) ∧
    (0x1000 < s.base + (x.val + 1) →
      Raises (.dump x) s (.memRange s.pc (encode (.dump x)) s.base (x.val + 1)) ∧
        Raises (.load x) s (.memRange s.pc (encode (.load x)) s.base (x.val + 1)))

/-- LD B and LD [I] into the font region raise MEM_READONLY with the lowest such address, after the range check (R53, R152,
R153, R214; D4, D37; FONT_BASE is assumption 5). -/
def Obligations.FontWritesFault : Prop :=
  ∀ (x : Idx) (a : Nat) s, s.base ≤ a → inFont a = true → (∀ b, s.base ≤ b → b < a → inFont b = false) →
    (a < s.base + 3 → s.base + 3 ≤ 0x1000 →
      Raises (.ldBcd x) s (.memReadonly s.pc (encode (.ldBcd x)) a)) ∧
    (a < s.base + (x.val + 1) → s.base + (x.val + 1) ≤ 0x1000 →
      Raises (.dump x) s (.memReadonly s.pc (encode (.dump x)) a))

/-! ## Display -/

/-- CLS (R170): every pixel is off, and nothing else changes but pc. -/
def Obligations.ClsTurnsEveryPixelOff : Prop :=
  ∀ s, Completes .cls s fun t =>
    (∀ x y, t.fb.pixel x y = false) ∧ t.pc = s.pc + 2 ∧ KeepsRegs s t ∧ t.i = s.i ∧ KeepsStack s t ∧
      KeepsTimers s t ∧ KeepsMemory s t ∧ KeepsRest s t

/-- DRW (R171): bit 7 - c of row r is XORed onto column (Vx + c) mod 64, row (Vy + r) mod 32, from the old Vx and Vy; a pixel
under no 1 bit stays; VF is 1 exactly when a 1 bit met a pixel that was on (vertical wrap and n = 0: D16; bit order: D29). -/
def Obligations.DrwXorsTheSprite : Prop :=
  ∀ (x y : Idx) (n : Nat) s, n < 16 → s.base + n ≤ 0x1000 →
    let bit (r c : Nat) : Bool := (s.mem.read (s.base + r)).getLsbD (7 - c)
    let px (c : Nat) : Fin 64 := Fin.ofNat 64 ((s.reg x).toNat % 64 + c)
    let py (r : Nat) : Fin 32 := Fin.ofNat 32 ((s.reg y).toNat % 32 + r)
    Completes (.drw x y n) s fun t =>
      (∀ r < n, ∀ c < 8, t.fb.pixel (px c) (py r) = (s.fb.pixel (px c) (py r) ^^ bit r c)) ∧
        (∀ a b, (∀ r < n, ∀ c < 8, bit r c = true → ¬(a = px c ∧ b = py r)) → t.fb.pixel a b = s.fb.pixel a b) ∧
        ((∃ r < n, ∃ c < 8, bit r c = true ∧ s.fb.pixel (px c) (py r) = true) → t.reg 15 = 1) ∧
        ((∀ r < n, ∀ c < 8, bit r c = true → s.fb.pixel (px c) (py r) = false) → t.reg 15 = 0) ∧
        t.pc = s.pc + 2 ∧ KeepsAllButPixelsFlagPc s t

/-- Drawing the same sprite twice at the same place restores the framebuffer, and the second draw reports VF = 1 if the
sprite has a 1 bit and the framebuffer was clear (95_test_vectors.md E6); x and y other than F, since VF is overwritten. -/
def Obligations.DrawingTwiceErases : Prop :=
  ∀ (x y : Idx) (n : Nat) s t u, n < 16 → x ≠ 15 → y ≠ 15 → s.base + n ≤ 0x1000 →
    exec (.drw x y n) s = .next t → exec (.drw x y n) t = .next u →
    u.fb = s.fb ∧
      ((∀ a b, s.fb.pixel a b = false) → t.reg 15 = 0 ∧
        ((∃ r < n, s.mem.read (s.base + r) ≠ 0) → u.reg 15 = 1))

/-! ## Keypad and timers -/

/-- SKP (R190) and SKNP (R191): the key is the low nibble of Vx (D14). -/
def Obligations.KeySkipsTestTheLowNibble : Prop :=
  ∀ (x k : Idx) s, k.val = (s.reg x).toNat % 16 →
    (Completes (.skp x) s fun t => t.pc = (if s.pressed k = true then s.pc + 4 else s.pc + 2) ∧ KeepsAllButPc s t) ∧
      Completes (.sknp x) s fun t => t.pc = (if s.pressed k = true then s.pc + 2 else s.pc + 4) ∧ KeepsAllButPc s t

/-- LD Vx,K with a key pressed stores the least pressed key and goes on (R192, R193; D15). -/
def Obligations.WaitForKeyStoresTheLeastKey : Prop :=
  ∀ (x k : Idx) s, s.pressed k = true → (∀ j, j < k → s.pressed j = false) →
    Completes (.ldVxKey x) s fun t =>
      (t.reg x).toNat = k.val ∧ KeepsRegsBut x s t ∧ t.pc = s.pc + 2 ∧ KeepsAllButRegsPc s t

/-- With no key pressed a Running core at LD Vx,K stays: a STEP answers Waiting and changes no state at all, for as long as
no KEY comes (R194); with nothing scheduled every number of steps leaves the state as it is. -/
def Obligations.WaitingChangesNothing : Prop :=
  ∀ (x : Idx) (s : State), s.runState = .running → s.pc.toNat ≤ 0xFFE → decode (wordAtPc s) = some (.ldVxKey x) →
    (∀ k, s.pressed k = false) →
    exec (.ldVxKey x) s = .next s ∧ s.reply .step = .waiting ∧
      (s.schedule = [] → ∀ k, Sys2Proof.core.run k s = .next s)

/-- LD Vx,DT (R195) and LD DT,Vx (R196) move the delay timer. -/
def Obligations.DelayTimerMoves : Prop :=
  ∀ (x : Idx) s,
    (Completes (.ldVxDt x) s fun t =>
      t.reg x = s.dt ∧ KeepsRegsBut x s t ∧ t.pc = s.pc + 2 ∧ KeepsAllButRegsPc s t) ∧
      Completes (.ldDtVx x) s fun t =>
        t.dt = s.reg x ∧ t.st = s.st ∧ t.pc = s.pc + 2 ∧ KeepsRegs s t ∧ t.i = s.i ∧ KeepsStack s t ∧ t.fb = s.fb ∧
          KeepsMemory s t ∧ KeepsRest s t

/-- The sound output is ST != 0 in every state (R231; D1), and LD ST,Vx (R197) sets ST to Vx, so that it is then Vx != 0; no
instruction reads ST back (D35). -/
def Obligations.SoundTimerIsWritten : Prop :=
  (∀ s : State, s.sound = true ↔ s.st ≠ 0) ∧
    ∀ (x : Idx) s, Completes (.ldStVx x) s fun t =>
      t.st = s.reg x ∧ (t.sound = true ↔ s.reg x ≠ 0) ∧ t.dt = s.dt ∧ t.pc = s.pc + 2 ∧ KeepsRegs s t ∧ t.i = s.i ∧
        KeepsStack s t ∧ t.fb = s.fb ∧ KeepsMemory s t ∧ KeepsRest s t

/-! ## Whole-machine rules -/

/-- Which instructions write what, over all instructions: a general register, I, the stack, sp, the timers, the
framebuffer, the random source, memory and run_state each change only under the instructions the state rules name; the
keypad and the host's transactions under none (10_state.md R22, R23, R26 to R33; 20_memory.md R65; 60_exceptions.md R210;
D7, D8, D11, D18, D22, D26, D35, and assumption 1 for run_state). How pc moves is `PcMovesAsTheInstructionSays`. -/
def Obligations.OnlyTheNamedInstructionsWrite : Prop :=
  ∀ i s t, exec i s = .next t →
    t.keys = s.keys ∧ t.schedule = s.schedule ∧
      (∀ y, t.reg y ≠ s.reg y →
        (∃ kk, i = .ldByte y kk ∨ i = .addByte y kk ∨ i = .rnd y kk) ∨
          (∃ z, i = .ldReg y z ∨ i = .orReg y z ∨ i = .andReg y z ∨ i = .xorReg y z ∨ i = .addReg y z ∨
            i = .subReg y z ∨ i = .shr y z ∨ i = .subnReg y z ∨ i = .shl y z) ∨
          i = .ldVxDt y ∨ i = .ldVxKey y ∨ (∃ x, y ≤ x ∧ i = .load x) ∨
          (y = 15 ∧ ((∃ x z, i = .addReg x z ∨ i = .subReg x z ∨ i = .shr x z ∨ i = .subnReg x z ∨ i = .shl x z) ∨
            ∃ x z n, i = .drw x z n))) ∧
      (t.i ≠ s.i → (∃ nnn, i = .ldI nnn) ∨ (∃ x, i = .addI x) ∨ ∃ x, i = .ldFont x) ∧
      (t.stack ≠ s.stack → ∃ nnn, i = .call nnn) ∧ (t.sp ≠ s.sp → i = .ret ∨ ∃ nnn, i = .call nnn) ∧
      (t.dt ≠ s.dt → ∃ x, i = .ldDtVx x) ∧ (t.st ≠ s.st → ∃ x, i = .ldStVx x) ∧
      (t.fb ≠ s.fb → i = .cls ∨ ∃ x y n, i = .drw x y n) ∧ (t.draws ≠ s.draws → ∃ x kk, i = .rnd x kk) ∧
      (t.mem ≠ s.mem → (∃ x, i = .ldBcd x) ∨ ∃ x, i = .dump x) ∧
      (t.runState ≠ s.runState → i = .ret ∨ (∃ nnn, i = .call nnn) ∨ (∃ x y n, i = .drw x y n) ∨
        ∃ x, i = .ldBcd x ∨ i = .dump x ∨ i = .load x)

/-- Which instructions can change VF (R21, R22, R257): the five flag-writing operations and DRW, and those that name VF as
a destination. -/
def Obligations.OnlyTheNamedInstructionsWriteVF : Prop :=
  ∀ i s t, exec i s = .next t → t.reg 15 ≠ s.reg 15 →
    (∃ x y, i = .addReg x y ∨ i = .subReg x y ∨ i = .subnReg x y ∨ i = .shr x y ∨ i = .shl x y) ∨
      (∃ x y n, i = .drw x y n) ∨
      (∃ kk, i = .ldByte 15 kk ∨ i = .addByte 15 kk ∨ i = .rnd 15 kk) ∨
      (∃ y, i = .ldReg 15 y ∨ i = .orReg 15 y ∨ i = .andReg 15 y ∨ i = .xorReg 15 y) ∨ i = .ldVxDt 15 ∨
      i = .ldVxKey 15 ∨ i = .load 15

/-- How pc moves, over all instructions that raise no fault: by 2, or by 4 under a skip, or to a target under RET, JP, CALL
and JP V0, or not at all under a waiting LD Vx,K (R25, R82, R83). -/
def Obligations.PcMovesAsTheInstructionSays : Prop :=
  ∀ i s t, exec i s = .next t → s.runState = .running → t.runState = .running →
    t.pc = s.pc + 2 ∨
      (t.pc = s.pc + 4 ∧ ((∃ x kk, i = .seByte x kk ∨ i = .sneByte x kk) ∨ (∃ x y, i = .seReg x y ∨ i = .sneReg x y) ∨
        ∃ x, i = .skp x ∨ i = .sknp x)) ∨
      i = .ret ∨ (∃ nnn, i = .jp nnn ∨ i = .call nnn ∨ i = .jpV0 nnn) ∨ ((∃ x, i = .ldVxKey x) ∧ t = s)

/-- CALL, then a RET reached with the same stack, resumes at the word after the CALL (95_test_vectors.md E2). -/
def Obligations.RetResumesAfterCall : Prop :=
  ∀ (nnn : Addr) s t u v, s.sp < 16 → exec (.call nnn) s = .next t → u.sp = t.sp → u.stack = t.stack →
    exec .ret u = .next v → v.pc = s.pc + 2 ∧ v.sp = s.sp

/-- A byte stored by LD [I] is what the next step fetches: the word at pc after the store is made of the stored registers
when pc0 + 2 is the base (20_memory.md R68). -/
def Obligations.StoredBytesAreFetched : Prop :=
  ∀ (x : Idx) s t, s.mem.wf → 1 ≤ x.val → s.runState = .running → s.schedule = [] → s.base + (x.val + 1) ≤ 0x1000 →
    (∀ a, s.base ≤ a → a < s.base + (x.val + 1) → inFont a = false) → (s.pc + 2).toNat = s.base →
    exec (.dump x) s = .next t →
    ∀ i, decode (BitVec.ofNat 16 ((s.reg 0).toNat * 256 + (s.reg 1).toNat)) = some i → step t = exec i t

/-- The end of a run (R259; D36): at a self-jump a Running core stays as it is for any number of steps, when the host
schedules nothing else. -/
def Obligations.SelfJumpStaysForEver : Prop :=
  ∀ s : State, s.runState = .running → s.schedule = [] → s.endOfRun = true → ∀ k, Sys2Proof.core.run k s = .next s

/-! ## The renderer's port -/

/-- FB_READ, Running or Faulted, answers the whole framebuffer and changes nothing: only the transaction itself is taken
off the host's schedule (R229; D33). -/
def Obligations.FbReadAnswersTheFramebuffer : Prop :=
  ∀ s ts, s.schedule = .fbRead :: ts →
    step s = .next { s with schedule := ts } ∧ s.reply .fbRead = .frame s.fb
end

