-- ==== Sys2Proof/Laws/Canvas.lean ====
section
/-! SUPPORT. What drawing a sprite does to each pixel, in closed form: a pixel is the XOR of what it was and of the sprite
bit that lands on it, and the collision flag says that one of those bits met a pixel that was on (43_display.md R171). -/

namespace Sys2Proof.Machine

theorem Framebuffer.pixel_flip (fb : Framebuffer) (x a : Fin 64) (y b : Fin 32) :
    (fb.flip x y).pixel a b = (fb.pixel a b ^^ decide (a = x ∧ b = y)) := by
  simp only [Framebuffer.flip, Framebuffer.pixel, Vector.getElem_set, Fin.ext_iff]
  by_cases hx : x.val = a.val <;> by_cases hy : y.val = b.val <;> simp [hx, hy, eq_comm]

theorem Framebuffer.pixel_flip_other (fb : Framebuffer) (x a : Fin 64) (y b : Fin 32) (h : ¬(a = x ∧ b = y)) :
    (fb.flip x y).pixel a b = fb.pixel a b := by
  rw [Framebuffer.pixel_flip, decide_eq_false h, Bool.xor_false]

/-- The framebuffer is determined by its pixels. -/
theorem Framebuffer.ext_pixel {f g : Framebuffer} (h : ∀ x y, f.pixel x y = g.pixel x y) : f = g := by
  refine Vector.ext fun x hx => Vector.ext fun y hy => ?_
  exact h ⟨x, hx⟩ ⟨y, hy⟩

@[simp] theorem Framebuffer.pixel_blank (x : Fin 64) (y : Fin 32) : Framebuffer.blank.pixel x y = false := by
  simp [Framebuffer.blank, Framebuffer.pixel]

/-- A pixel on which no 1 bit of the row lands keeps its value. -/
theorem Canvas.pixel_drawRow_off (x0 : Nat) (py q : Fin 32) (a : Fin 64) (b : Byte) (c cols : Nat) (d : Canvas)
    (h : ∀ k < cols, b.getLsbD (7 - (c + k)) = true → ¬(a = Fin.ofNat 64 (x0 + (c + k)) ∧ q = py)) :
    (d.drawRow x0 py b c cols).fb.pixel a q = d.fb.pixel a q := by
  induction cols generalizing c d with
  | zero => rfl
  | succ n ih =>
    rw [Canvas.drawRow, ih _ _ fun k hk hb => by
      have := h (k + 1) (by omega)
      rw [show c + (k + 1) = c + 1 + k by omega] at this
      exact this hb]
    split
    · next hb => exact Framebuffer.pixel_flip_other _ _ _ _ _ (h 0 (by omega) hb)
    · rfl

/-- The pixel under column c + k of the row is XORed with that column's bit. -/
theorem Canvas.pixel_drawRow_on (x0 : Nat) (py : Fin 32) (b : Byte) (c cols k : Nat) (d : Canvas) (hk : k < cols)
    (hc : cols ≤ 64) :
    (d.drawRow x0 py b c cols).fb.pixel (Fin.ofNat 64 (x0 + (c + k))) py =
      (d.fb.pixel (Fin.ofNat 64 (x0 + (c + k))) py ^^ b.getLsbD (7 - (c + k))) := by
  induction cols generalizing c k d with
  | zero => omega
  | succ n ih =>
    rw [Canvas.drawRow]
    cases k with
    | zero =>
      rw [Canvas.pixel_drawRow_off _ _ _ _ _ _ _ _ fun j hj _ => by
        simp only [Fin.ext_iff, Fin.val_ofNat]; omega]
      split
      · next hb => simp_all [Canvas.xorOn, Framebuffer.pixel_flip]
      · next hb => simp_all
    | succ k =>
      rw [show c + (k + 1) = c + 1 + k by omega, ih (c + 1) k _ (by omega) (by omega)]
      congr 1
      split
      · refine Framebuffer.pixel_flip_other _ _ _ _ _ ?_
        simp only [Fin.ext_iff, Fin.val_ofNat]; omega
      · rfl

/-- A row collides when one of its 1 bits lands on a pixel that is on. -/
theorem Canvas.collision_drawRow (x0 : Nat) (py : Fin 32) (b : Byte) (c cols : Nat) (d : Canvas) (hc : cols ≤ 64) :
    (d.drawRow x0 py b c cols).collision = true ↔
      d.collision = true ∨
        ∃ k < cols, b.getLsbD (7 - (c + k)) = true ∧ d.fb.pixel (Fin.ofNat 64 (x0 + (c + k))) py = true := by
  induction cols generalizing c d with
  | zero => simp [Canvas.drawRow]
  | succ n ih =>
    have key : ∀ k < n, ∀ b' : Bool, (if b' then d.xorOn (Fin.ofNat 64 (x0 + c)) py else d).fb.pixel
        (Fin.ofNat 64 (x0 + (c + 1 + k))) py = d.fb.pixel (Fin.ofNat 64 (x0 + (c + (k + 1)))) py := by
      intro k hk b'
      rw [show c + (k + 1) = c + 1 + k by omega]
      cases b'
      · rfl
      · refine Framebuffer.pixel_flip_other _ _ _ _ _ ?_
        simp only [Fin.ext_iff, Fin.val_ofNat]; omega
    rw [Canvas.drawRow, ih _ _ (by omega)]
    constructor
    · rintro (h | ⟨k, hk, hb, hp⟩)
      · split at h
        · next hb =>
          rcases Bool.or_eq_true_iff.mp h with h | h
          · exact .inl h
          · exact .inr ⟨0, by omega, hb, h⟩
        · exact .inl h
      · rw [key k hk] at hp
        exact .inr ⟨k + 1, by omega, by rwa [show c + (k + 1) = c + 1 + k by omega], hp⟩
    · rintro (h | ⟨k, hk, hb, hp⟩)
      · left; split
        · simp [Canvas.xorOn, h]
        · exact h
      · cases k with
        | zero =>
          have hb' : b.getLsbD (7 - c) = true := hb
          left; rw [if_pos hb']
          exact Bool.or_eq_true_iff.mpr (.inr hp)
        | succ k =>
          right
          refine ⟨k, by omega, by rwa [show c + 1 + k = c + (k + 1) by omega], ?_⟩
          rw [key k (by omega)]; exact hp

/-- A pixel on which no 1 bit of the sprite lands keeps its value. -/
theorem Canvas.pixel_drawRows_off (x0 y0 r : Nat) (rows : List Byte) (a : Fin 64) (q : Fin 32) (d : Canvas)
    (h : ∀ j < rows.length, ∀ c < 8, (rows.getD j 0).getLsbD (7 - c) = true →
      ¬(a = Fin.ofNat 64 (x0 + c) ∧ q = Fin.ofNat 32 (y0 + (r + j)))) :
    (d.drawRows x0 y0 r rows).fb.pixel a q = d.fb.pixel a q := by
  induction rows generalizing r d with
  | nil => rfl
  | cons b bs ih =>
    rw [Canvas.drawRows, ih _ _ fun j hj c hc hb => by
      have := h (j + 1) (by simpa using hj) c hc (by simpa using hb)
      rwa [show r + (j + 1) = r + 1 + j by omega] at this]
    refine Canvas.pixel_drawRow_off _ _ _ _ _ _ _ _ fun k hk hb => ?_
    simpa using h 0 (by simp) k hk (by simpa using hb)

/-- The pixel under row r + j, column c of the sprite is XORed with that bit. -/
theorem Canvas.pixel_drawRows_on (x0 y0 r : Nat) (rows : List Byte) (j c : Nat) (d : Canvas) (hj : j < rows.length)
    (hc : c < 8) (hr : rows.length ≤ 32) :
    (d.drawRows x0 y0 r rows).fb.pixel (Fin.ofNat 64 (x0 + c)) (Fin.ofNat 32 (y0 + (r + j))) =
      (d.fb.pixel (Fin.ofNat 64 (x0 + c)) (Fin.ofNat 32 (y0 + (r + j))) ^^ (rows.getD j 0).getLsbD (7 - c)) := by
  induction rows generalizing r j d with
  | nil => simp at hj
  | cons b bs ih =>
    simp only [List.length_cons] at hj hr
    rw [Canvas.drawRows]
    cases j with
    | zero =>
      rw [Canvas.pixel_drawRows_off _ _ _ _ _ _ _ fun j hj c _ _ => by
        simp only [Fin.ext_iff, Fin.val_ofNat]; omega]
      simpa using Canvas.pixel_drawRow_on x0 (Fin.ofNat 32 (y0 + r)) b 0 8 c d hc (by decide)
    | succ j =>
      rw [show r + (j + 1) = r + 1 + j by omega, ih (r + 1) j _ (by omega) (by omega)]
      congr 1
      refine Canvas.pixel_drawRow_off _ _ _ _ _ _ _ _ fun k _ _ => ?_
      simp only [Fin.ext_iff, Fin.val_ofNat]; omega

/-- A sprite collides when one of its 1 bits lands on a pixel that was on before the draw. -/
theorem Canvas.collision_drawRows (x0 y0 r : Nat) (rows : List Byte) (d : Canvas) (hr : rows.length ≤ 32) :
    (d.drawRows x0 y0 r rows).collision = true ↔
      d.collision = true ∨ ∃ j < rows.length, ∃ c < 8, (rows.getD j 0).getLsbD (7 - c) = true ∧
        d.fb.pixel (Fin.ofNat 64 (x0 + c)) (Fin.ofNat 32 (y0 + (r + j))) = true := by
  induction rows generalizing r d with
  | nil => simp [Canvas.drawRows]
  | cons b bs ih =>
    simp only [List.length_cons] at hr
    have key : ∀ j < bs.length, ∀ c, (d.drawRow x0 (Fin.ofNat 32 (y0 + r)) b 0 8).fb.pixel (Fin.ofNat 64 (x0 + c))
        (Fin.ofNat 32 (y0 + (r + 1 + j))) =
        d.fb.pixel (Fin.ofNat 64 (x0 + c)) (Fin.ofNat 32 (y0 + (r + (j + 1)))) := by
      intro j hj c
      rw [show r + (j + 1) = r + 1 + j by omega]
      refine Canvas.pixel_drawRow_off _ _ _ _ _ _ _ _ fun k _ _ => ?_
      simp only [Fin.ext_iff, Fin.val_ofNat]; omega
    rw [Canvas.drawRows, ih _ _ (by omega), Canvas.collision_drawRow _ _ _ _ _ _ (by decide)]
    constructor
    · rintro ((h | ⟨k, hk, hb, hp⟩) | ⟨j, hj, c, hc, hb, hp⟩)
      · exact .inl h
      · exact .inr ⟨0, by simp, k, hk, by simpa using hb, by simpa using hp⟩
      · rw [key j hj] at hp
        exact .inr ⟨j + 1, by simpa using hj, c, hc, by simpa using hb, hp⟩
    · rintro (h | ⟨j, hj, c, hc, hb, hp⟩)
      · exact .inl (.inl h)
      · cases j with
        | zero => exact .inl (.inr ⟨c, hc, by simpa using hb, by simpa using hp⟩)
        | succ j =>
          refine .inr ⟨j, by simpa using hj, c, hc, by simpa using hb, ?_⟩
          rw [key j (by simpa using hj)]; exact hp

end Sys2Proof.Machine
end

