-- ==== Sys2Proof/Laws/Encoding.lean ====
section
/-! SUPPORT. The fields of the words each encoding format builds, and the bits they keep. -/

namespace Sys2Proof

theorem toNat_encNNN (op : Nat) (a : Addr) (h : op < 16) : (encNNN op a).toNat = op * 4096 + a.toNat := by
  have := a.isLt; simp [encNNN]; omega

theorem toNat_encXKK (op : Nat) (x : Idx) (k : Byte) (h : op < 16) :
    (encXKK op x k).toNat = op * 4096 + x.val * 256 + k.toNat := by
  have := k.isLt; have := x.isLt; simp [encXKK]; omega

theorem toNat_encXYN (op : Nat) (x y : Idx) (n : Nat) (h : op < 16) :
    (encXYN op x y n).toNat = op * 4096 + x.val * 256 + y.val * 16 + n % 16 := by
  have := x.isLt; have := y.isLt; simp [encXYN]; omega

theorem toNat_encXSS (op : Nat) (x : Idx) (sub : Nat) (h : op < 16) (hs : sub < 256) :
    (encXSS op x sub).toNat = op * 4096 + x.val * 256 + sub := by
  have := x.isLt; simp [encXSS]; omega

theorem fieldFamily_of_toNat (w : Word) (op r : Nat) (h : w.toNat = op * 4096 + r) (hr : r < 4096) :
    fieldFamily w = op := by simp [fieldFamily, bits]; omega

theorem fieldFamily_encNNN (op : Nat) (a : Addr) (h : op < 16) : fieldFamily (encNNN op a) = op :=
  fieldFamily_of_toNat _ op a.toNat (toNat_encNNN op a h) a.isLt

theorem fieldFamily_encXKK (op : Nat) (x : Idx) (k : Byte) (h : op < 16) : fieldFamily (encXKK op x k) = op :=
  fieldFamily_of_toNat _ op (x.val * 256 + k.toNat) (by rw [toNat_encXKK op x k h]; omega) (by omega)

theorem fieldFamily_encXYN (op : Nat) (x y : Idx) (n : Nat) (h : op < 16) : fieldFamily (encXYN op x y n) = op :=
  fieldFamily_of_toNat _ op (x.val * 256 + y.val * 16 + n % 16) (by rw [toNat_encXYN op x y n h]; omega) (by omega)

theorem fieldFamily_encXSS (op : Nat) (x : Idx) (sub : Nat) (h : op < 16) (hs : sub < 256) :
    fieldFamily (encXSS op x sub) = op :=
  fieldFamily_of_toNat _ op (x.val * 256 + sub) (by rw [toNat_encXSS op x sub h hs]; omega) (by omega)

theorem fieldNNN_encNNN (op : Nat) (a : Addr) (h : op < 16) : fieldNNN (encNNN op a) = a := by
  have := a.isLt
  apply BitVec.eq_of_toNat_eq
  simp [fieldNNN, bits, toNat_encNNN op a h]; omega

theorem fieldX_encXKK (op : Nat) (x : Idx) (k : Byte) (h : op < 16) : fieldX (encXKK op x k) = x := by
  have := k.isLt; have := x.isLt
  apply Fin.ext; simp [fieldX, bits, toNat_encXKK op x k h]; omega

theorem fieldKK_encXKK (op : Nat) (x : Idx) (k : Byte) (h : op < 16) : fieldKK (encXKK op x k) = k := by
  have := k.isLt; have := x.isLt
  apply BitVec.eq_of_toNat_eq
  simp [fieldKK, bits, toNat_encXKK op x k h]; omega

theorem fieldX_encXYN (op : Nat) (x y : Idx) (n : Nat) (h : op < 16) : fieldX (encXYN op x y n) = x := by
  have := x.isLt; have := y.isLt
  apply Fin.ext; simp [fieldX, bits, toNat_encXYN op x y n h]; omega

theorem fieldY_encXYN (op : Nat) (x y : Idx) (n : Nat) (h : op < 16) : fieldY (encXYN op x y n) = y := by
  have := x.isLt; have := y.isLt
  apply Fin.ext; simp [fieldY, bits, toNat_encXYN op x y n h]; omega

theorem fieldN_encXYN (op : Nat) (x y : Idx) (n : Nat) (h : op < 16) : fieldN (encXYN op x y n) = n % 16 := by
  have := x.isLt; have := y.isLt
  simp [fieldN, bits, toNat_encXYN op x y n h]; omega

theorem fieldX_encXSS (op : Nat) (x : Idx) (sub : Nat) (h : op < 16) (hs : sub < 256) : fieldX (encXSS op x sub) = x := by
  have := x.isLt
  apply Fin.ext; simp [fieldX, bits, toNat_encXSS op x sub h hs]; omega

theorem lowByte_encXSS (op : Nat) (x : Idx) (sub : Nat) (h : op < 16) (hs : sub < 256) :
    bits (encXSS op x sub) 0 8 = sub := by
  have := x.isLt
  simp [bits, toNat_encXSS op x sub h hs]; omega

/-! The fields of any word, as numbers (30_encoding.md R72). -/

theorem fieldFamily_eq (w : Word) : fieldFamily w = w.toNat / 4096 := by
  have := w.isLt
  simp [fieldFamily, bits]; omega

theorem val_fieldX (w : Word) : (fieldX w).val = w.toNat / 256 % 16 := by simp [fieldX, bits]

theorem val_fieldY (w : Word) : (fieldY w).val = w.toNat / 16 % 16 := by simp [fieldY, bits]

theorem fieldN_eq (w : Word) : fieldN w = w.toNat % 16 := by simp [fieldN, bits]

theorem toNat_fieldKK (w : Word) : (fieldKK w).toNat = w.toNat % 256 := by simp [fieldKK, bits]

theorem toNat_fieldNNN (w : Word) : (fieldNNN w).toNat = w.toNat % 4096 := by simp [fieldNNN, bits]

theorem lowByte_eq (w : Word) : bits w 0 8 = w.toNat % 256 := by simp [bits]

/-- The big-endian word of two bytes, as a number (20_memory.md R58). -/
theorem toNat_wordOfBytes (hi lo : Byte) : (wordOfBytes hi lo).toNat = hi.toNat * 256 + lo.toNat := by
  have h1 := hi.isLt; have h2 := lo.isLt
  simp only [wordOfBytes, BitVec.toNat_or, BitVec.toNat_shiftLeft, BitVec.toNat_setWidth]
  rw [Nat.mod_eq_of_lt (show hi.toNat < 2 ^ 16 by omega), Nat.mod_eq_of_lt (show lo.toNat < 2 ^ 16 by omega),
    Nat.shiftLeft_eq, Nat.mod_eq_of_lt (show hi.toNat * 2 ^ 8 < 2 ^ 16 by omega), ← Nat.shiftLeft_eq,
    ← Nat.shiftLeft_add_eq_or_of_lt (show lo.toNat < 2 ^ 8 by omega), Nat.shiftLeft_eq]

end Sys2Proof
end

