-- ==== Sys2Proof/Laws/Memory.lean ====
section
/-! SUPPORT. The laws of memory: a read after a write, and that every memory operation keeps the canonical form. -/

namespace Sys2Proof.Machine

@[simp] theorem Memory.read_nil (a : Nat) : Memory.read [] a = resetByte a := rfl

theorem Memory.read_cons (c : Host.Cell) (m : Memory) (a : Nat) :
    Memory.read (c :: m) a = if c.1 = a then c.2 else Memory.read m a := rfl

/-- An address below every listed one reads as its reset contents. -/
theorem Memory.read_of_lt (m : Memory) (a : Nat) (h : ∀ c ∈ m, a < c.1) : m.read a = resetByte a := by
  induction m with
  | nil => rfl
  | cons c m ih =>
    have hc := h c (by simp)
    rw [Memory.read_cons, if_neg (by omega)]
    exact ih fun d hd => h d (by simp [hd])

theorem Memory.read_cons_op (a b : Nat) (x : Byte) (m : Memory) (h : ∀ c ∈ m, a < c.1) :
    Memory.read (Memory.cons a x m) b = if b = a then x else m.read b := by
  unfold Memory.cons
  split
  · split
    · subst_vars; exact Memory.read_of_lt m _ h
    · rfl
  · rw [Memory.read_cons]; simp only [eq_comm]

/-- A read after a write: the written byte at the written address, the old byte elsewhere. -/
theorem Memory.read_write (a b : Nat) (x : Byte) (m : Memory) (h : m.wf) :
    (m.write a x).read b = if b = a then x else m.read b := by
  induction m with
  | nil => exact Memory.read_cons_op a b x [] (by simp)
  | cons c m ih =>
    obtain ⟨hs, hm⟩ := h
    obtain ⟨hlt, hs⟩ := List.pairwise_cons.mp hs
    unfold Memory.write
    split
    · refine Memory.read_cons_op a b x (c :: m) fun d hd => ?_
      rcases List.mem_cons.mp hd with rfl | hd
      · assumption
      · have := hlt d hd; omega
    · split
      · rename_i h1 h2
        rw [Memory.read_cons_op a b x m (fun d hd => h2 ▸ hlt d hd), Memory.read_cons]
        split <;> simp_all
        intro; omega
      · rw [Memory.read_cons, Memory.read_cons, ih ⟨hs, fun d hd => hm d (by simp [hd])⟩]
        split <;> split <;> first | rfl | omega

theorem Memory.mem_cons_op {a : Nat} {x : Byte} {m : Memory} {c : Host.Cell} (h : c ∈ Memory.cons a x m) :
    (c = (a, x) ∧ x ≠ resetByte a) ∨ c ∈ m := by
  unfold Memory.cons at h
  split at h
  · exact .inr h
  · rcases List.mem_cons.mp h with rfl | h
    · exact .inl ⟨rfl, by assumption⟩
    · exact .inr h

/-- A write lists the written cell, if at all, beside cells that were listed. -/
theorem Memory.mem_write {a : Nat} {x : Byte} {m : Memory} {c : Host.Cell} (h : c ∈ m.write a x) :
    (c = (a, x) ∧ x ≠ resetByte a) ∨ c ∈ m := by
  induction m with
  | nil => exact Memory.mem_cons_op h
  | cons d m ih =>
    unfold Memory.write at h
    split at h
    · exact Memory.mem_cons_op h
    · split at h
      · exact (Memory.mem_cons_op h).imp_right (List.mem_cons_of_mem d)
      · rcases List.mem_cons.mp h with rfl | h
        · exact .inr (by simp)
        · exact (ih h).imp_right (List.mem_cons_of_mem d)

theorem Memory.pairwise_cons_op {a : Nat} {x : Byte} {m : Memory} (hs : m.Pairwise (fun c d => c.1 < d.1))
    (h : ∀ c ∈ m, a < c.1) : (Memory.cons a x m).Pairwise (fun c d => c.1 < d.1) := by
  unfold Memory.cons
  split
  · exact hs
  · exact List.pairwise_cons.mpr ⟨h, hs⟩

theorem Memory.pairwise_write {a : Nat} {x : Byte} {m : Memory} (hs : m.Pairwise (fun c d => c.1 < d.1)) :
    (m.write a x).Pairwise (fun c d => c.1 < d.1) := by
  induction m with
  | nil => exact Memory.pairwise_cons_op hs (by simp)
  | cons c m ih =>
    obtain ⟨hlt, hs'⟩ := List.pairwise_cons.mp hs
    unfold Memory.write
    split
    · refine Memory.pairwise_cons_op hs fun d hd => ?_
      rcases List.mem_cons.mp hd with rfl | hd
      · assumption
      · have := hlt d hd; omega
    · split
      · rename_i h1 h2
        exact Memory.pairwise_cons_op hs' fun d hd => h2 ▸ hlt d hd
      · refine List.pairwise_cons.mpr ⟨fun d hd => ?_, ih hs'⟩
        rcases Memory.mem_write hd with ⟨rfl, _⟩ | hd
        · show c.1 < a; omega
        · exact hlt d hd

/-- A write inside memory keeps the canonical form. -/
theorem Memory.wf_write {a : Nat} {x : Byte} {m : Memory} (h : m.wf) (ha : a < Config.memSize) : (m.write a x).wf := by
  refine ⟨Memory.pairwise_write h.1, fun c hc => ?_⟩
  rcases Memory.mem_write hc with ⟨rfl, hx⟩ | hc
  · exact ⟨ha, hx⟩
  · exact h.2 c hc

/-- Writing consecutive bytes inside memory keeps the canonical form. -/
theorem Memory.wf_writeBytes {a : Nat} {bs : List Byte} {m : Memory} (h : m.wf) (ha : a + bs.length ≤ Config.memSize) :
    (m.writeBytes a bs).wf := by
  induction bs generalizing a m with
  | nil => exact h
  | cons b bs ih =>
    simp only [List.length_cons] at ha
    exact ih (Memory.wf_write h (by omega)) (by omega)

/-- A read after consecutive writes: the byte written there, or the old byte outside the written range. -/
theorem Memory.read_writeBytes {a : Nat} {bs : List Byte} {m : Memory} (h : m.wf)
    (ha : a + bs.length ≤ Config.memSize) (b : Nat) :
    (m.writeBytes a bs).read b = if a ≤ b ∧ b < a + bs.length then bs.getD (b - a) 0 else m.read b := by
  induction bs generalizing a m with
  | nil => simp [Memory.writeBytes]
  | cons x bs ih =>
    simp only [List.length_cons] at ha
    rw [Memory.writeBytes, ih (Memory.wf_write h (by omega)) (by omega), Memory.read_write _ _ _ _ h]
    rcases Nat.lt_trichotomy b a with hb | rfl | hb
    · rw [if_neg (by omega), if_neg (by omega), if_neg (by simp; omega)]
    · rw [if_neg (by omega), if_pos rfl, if_pos (by simp)]; simp
    · obtain ⟨k, rfl⟩ : ∃ k, b = a + 1 + k := ⟨b - a - 1, by omega⟩
      have h1 : a + 1 + k - a = k + 1 := by omega
      have h2 : a + 1 + k - (a + 1) = k := by omega
      rw [h1, h2, List.getD_cons_succ, if_neg (show a + 1 + k ≠ a by omega)]
      exact if_congr (by simp only [List.length_cons]; omega) rfl rfl

/-- Byte k of consecutive writes is read back at address a + k. -/
theorem Memory.read_writeBytes_in {a : Nat} {bs : List Byte} {m : Memory} (h : m.wf)
    (ha : a + bs.length ≤ Config.memSize) (k : Nat) (hk : k < bs.length) :
    (m.writeBytes a bs).read (a + k) = bs.getD k 0 := by
  rw [Memory.read_writeBytes h ha, if_pos ⟨by omega, by omega⟩, Nat.add_sub_cancel_left]

/-- Consecutive writes leave every address outside their range. -/
theorem Memory.read_writeBytes_out {a : Nat} {bs : List Byte} {m : Memory} (h : m.wf)
    (ha : a + bs.length ≤ Config.memSize) (b : Nat) (hb : b < a ∨ a + bs.length ≤ b) :
    (m.writeBytes a bs).read b = m.read b := by
  rw [Memory.read_writeBytes h ha, if_neg (by omega)]

@[simp] theorem Memory.length_readBytes (m : Memory) (a len : Nat) : (m.readBytes a len).length = len := by
  induction len generalizing a with
  | zero => rfl
  | succ n ih => simp [Memory.readBytes, ih]

/-- The bytes read are those at the consecutive addresses. -/
theorem Memory.getElem_readBytes (m : Memory) (a len k : Nat) (h : k < (m.readBytes a len).length) :
    (m.readBytes a len)[k] = m.read (a + k) := by
  induction len generalizing a k with
  | zero => simp [Memory.readBytes] at h
  | succ n ih =>
    cases k with
    | zero => simp [Memory.readBytes]
    | succ k =>
      simp only [Memory.readBytes, List.getElem_cons_succ]
      rw [ih]; congr 1; omega

theorem Memory.getD_readBytes (m : Memory) (a len k : Nat) (h : k < len) :
    (m.readBytes a len).getD k 0 = m.read (a + k) := by
  rw [List.getD_eq_getElem _ _ (by simpa using h), Memory.getElem_readBytes]

theorem Memory.wf_nil : Memory.wf [] := ⟨List.Pairwise.nil, by simp⟩

end Sys2Proof.Machine
end

