-- ==== Sys2Proof/Laws/PerInstr.lean ====
section
/-! SUPPORT. Statements made of every instruction as syntax, one lemma per constructor: its opcode word selects its own row
of the opcode map (30_encoding.md R75). -/

namespace Sys2Proof.Laws.RowOfEncoding

/-- The word of `i` selects the row the spec prints for `i`, and that row is one of the map's. -/
def Statement (i : Instr) : Prop := i.row.selects (encode i) = true ∧ i.row ∈ opcodeMap

/-- The masks of the map keep the family and the low `k` bits of a word. -/
theorem and_nibble_mask (n k : Nat) (h : n < 65536) (hk : k ≤ 12) :
    n &&& (0xF000 ||| (2 ^ k - 1)) = n / 4096 * 4096 + n % 2 ^ k := by
  have hlt : n % 2 ^ k < 2 ^ 12 :=
    lt_of_lt_of_le (Nat.mod_lt _ (Nat.two_pow_pos k)) (Nat.pow_le_pow_right (by decide) hk)
  have hF : (0xF000 : Nat) = (2 ^ 4 - 1) <<< 12 := by decide
  have hd : n / 4096 * 4096 = (n >>> 12) <<< 12 := by simp [Nat.shiftRight_eq_div_pow, Nat.shiftLeft_eq]
  rw [hd, Nat.shiftLeft_add_eq_or_of_lt hlt, hF]
  apply Nat.eq_of_testBit_eq
  intro i
  simp only [Nat.testBit_and, Nat.testBit_or, Nat.testBit_shiftLeft, Nat.testBit_shiftRight,
    Nat.testBit_two_pow_sub_one, Nat.testBit_mod_two_pow]
  by_cases hn : n.testBit i = true
  · have hi : i < 16 := by
      by_contra hh
      have : 2 ^ 16 ≤ n := le_trans (Nat.pow_le_pow_right (by decide) (by omega)) (Nat.ge_two_pow_of_testBit hn)
      omega
    by_cases h12 : 12 ≤ i <;> simp [h12, hn]
    omega
  · by_cases h12 : 12 ≤ i <;> simp_all

/-- The word whose family and low `k` bits are `p` selects the row with pattern `p` and that mask. -/
theorem selects_of_toNat (w p m : Word) (k : Nat) (hk : k ≤ 12) (hm : m.toNat = 0xF000 ||| (2 ^ k - 1))
    (hp : w.toNat / 4096 * 4096 + w.toNat % 2 ^ k = p.toNat) : (OpcodeRow.mk p m).selects w = true := by
  simp only [OpcodeRow.selects, beq_iff_eq]
  apply BitVec.eq_of_toNat_eq
  rw [BitVec.toNat_and, hm, and_nibble_mask _ _ w.isLt hk, hp]

theorem selects_NNN (op : Nat) (a : Addr) (h : op < 16) :
    (OpcodeRow.mk (BitVec.ofNat 16 (op * 4096)) 0xF000).selects (encNNN op a) = true := by
  have := a.isLt
  refine selects_of_toNat _ _ _ 0 (by decide) (by decide) ?_
  rw [toNat_encNNN op a h, BitVec.toNat_ofNat]; omega

theorem selects_XKK (op : Nat) (x : Idx) (kk : Byte) (h : op < 16) :
    (OpcodeRow.mk (BitVec.ofNat 16 (op * 4096)) 0xF000).selects (encXKK op x kk) = true := by
  have := kk.isLt; have := x.isLt
  refine selects_of_toNat _ _ _ 0 (by decide) (by decide) ?_
  rw [toNat_encXKK op x kk h, BitVec.toNat_ofNat]; omega

theorem selects_XYN (op : Nat) (x y : Idx) (n : Nat) (h : op < 16) :
    (OpcodeRow.mk (BitVec.ofNat 16 (op * 4096)) 0xF000).selects (encXYN op x y n) = true := by
  have := y.isLt; have := x.isLt
  refine selects_of_toNat _ _ _ 0 (by decide) (by decide) ?_
  rw [toNat_encXYN op x y n h, BitVec.toNat_ofNat]; omega

theorem selects_XYS (op : Nat) (x y : Idx) (sub : Nat) (h : op < 16) (hs : sub < 16) :
    (OpcodeRow.mk (BitVec.ofNat 16 (op * 4096 + sub)) 0xF00F).selects (encXYN op x y sub) = true := by
  have := y.isLt; have := x.isLt
  refine selects_of_toNat _ _ _ 4 (by decide) (by decide) ?_
  rw [toNat_encXYN op x y sub h, BitVec.toNat_ofNat]; omega

theorem selects_XSS (op : Nat) (x : Idx) (sub : Nat) (h : op < 16) (hs : sub < 256) :
    (OpcodeRow.mk (BitVec.ofNat 16 (op * 4096 + sub)) 0xF0FF).selects (encXSS op x sub) = true := by
  have := x.isLt
  refine selects_of_toNat _ _ _ 8 (by decide) (by decide) ?_
  rw [toNat_encXSS op x sub h hs, BitVec.toNat_ofNat]; omega

theorem mem_opcodeMap (r : OpcodeRow) (h : opcodeMap.contains r = true) : r ∈ opcodeMap := by simpa using h

/-! ## One lemma per constructor -/

theorem cls : Statement .cls := ⟨by decide, mem_opcodeMap _ rfl⟩
theorem ret : Statement .ret := ⟨by decide, mem_opcodeMap _ rfl⟩
theorem jp (nnn : Addr) : Statement (.jp nnn) :=
  ⟨selects_NNN 0x1 nnn (by decide), mem_opcodeMap _ rfl⟩
theorem call (nnn : Addr) : Statement (.call nnn) :=
  ⟨selects_NNN 0x2 nnn (by decide), mem_opcodeMap _ rfl⟩
theorem seByte (x : Idx) (kk : Byte) : Statement (.seByte x kk) :=
  ⟨selects_XKK 0x3 x kk (by decide), mem_opcodeMap _ rfl⟩
theorem sneByte (x : Idx) (kk : Byte) : Statement (.sneByte x kk) :=
  ⟨selects_XKK 0x4 x kk (by decide), mem_opcodeMap _ rfl⟩
theorem seReg (x y : Idx) : Statement (.seReg x y) :=
  ⟨selects_XYS 0x5 x y 0x0 (by decide) (by decide), mem_opcodeMap _ rfl⟩
theorem ldByte (x : Idx) (kk : Byte) : Statement (.ldByte x kk) :=
  ⟨selects_XKK 0x6 x kk (by decide), mem_opcodeMap _ rfl⟩
theorem addByte (x : Idx) (kk : Byte) : Statement (.addByte x kk) :=
  ⟨selects_XKK 0x7 x kk (by decide), mem_opcodeMap _ rfl⟩
theorem ldReg (x y : Idx) : Statement (.ldReg x y) :=
  ⟨selects_XYS 0x8 x y 0x0 (by decide) (by decide), mem_opcodeMap _ rfl⟩
theorem orReg (x y : Idx) : Statement (.orReg x y) :=
  ⟨selects_XYS 0x8 x y 0x1 (by decide) (by decide), mem_opcodeMap _ rfl⟩
theorem andReg (x y : Idx) : Statement (.andReg x y) :=
  ⟨selects_XYS 0x8 x y 0x2 (by decide) (by decide), mem_opcodeMap _ rfl⟩
theorem xorReg (x y : Idx) : Statement (.xorReg x y) :=
  ⟨selects_XYS 0x8 x y 0x3 (by decide) (by decide), mem_opcodeMap _ rfl⟩
theorem addReg (x y : Idx) : Statement (.addReg x y) :=
  ⟨selects_XYS 0x8 x y 0x4 (by decide) (by decide), mem_opcodeMap _ rfl⟩
theorem subReg (x y : Idx) : Statement (.subReg x y) :=
  ⟨selects_XYS 0x8 x y 0x5 (by decide) (by decide), mem_opcodeMap _ rfl⟩
theorem shr (x y : Idx) : Statement (.shr x y) :=
  ⟨selects_XYS 0x8 x y 0x6 (by decide) (by decide), mem_opcodeMap _ rfl⟩
theorem subnReg (x y : Idx) : Statement (.subnReg x y) :=
  ⟨selects_XYS 0x8 x y 0x7 (by decide) (by decide), mem_opcodeMap _ rfl⟩
theorem shl (x y : Idx) : Statement (.shl x y) :=
  ⟨selects_XYS 0x8 x y 0xE (by decide) (by decide), mem_opcodeMap _ rfl⟩
theorem sneReg (x y : Idx) : Statement (.sneReg x y) :=
  ⟨selects_XYS 0x9 x y 0x0 (by decide) (by decide), mem_opcodeMap _ rfl⟩
theorem ldI (nnn : Addr) : Statement (.ldI nnn) :=
  ⟨selects_NNN 0xA nnn (by decide), mem_opcodeMap _ rfl⟩
theorem jpV0 (nnn : Addr) : Statement (.jpV0 nnn) :=
  ⟨selects_NNN 0xB nnn (by decide), mem_opcodeMap _ rfl⟩
theorem rnd (x : Idx) (kk : Byte) : Statement (.rnd x kk) :=
  ⟨selects_XKK 0xC x kk (by decide), mem_opcodeMap _ rfl⟩
theorem drw (x y : Idx) (n : Nat) : Statement (.drw x y n) :=
  ⟨selects_XYN 0xD x y n (by decide), mem_opcodeMap _ rfl⟩
theorem skp (x : Idx) : Statement (.skp x) :=
  ⟨selects_XSS 0xE x 0x9E (by decide) (by decide), mem_opcodeMap _ rfl⟩
theorem sknp (x : Idx) : Statement (.sknp x) :=
  ⟨selects_XSS 0xE x 0xA1 (by decide) (by decide), mem_opcodeMap _ rfl⟩
theorem ldVxDt (x : Idx) : Statement (.ldVxDt x) :=
  ⟨selects_XSS 0xF x 0x07 (by decide) (by decide), mem_opcodeMap _ rfl⟩
theorem ldVxKey (x : Idx) : Statement (.ldVxKey x) :=
  ⟨selects_XSS 0xF x 0x0A (by decide) (by decide), mem_opcodeMap _ rfl⟩
theorem ldDtVx (x : Idx) : Statement (.ldDtVx x) :=
  ⟨selects_XSS 0xF x 0x15 (by decide) (by decide), mem_opcodeMap _ rfl⟩
theorem ldStVx (x : Idx) : Statement (.ldStVx x) :=
  ⟨selects_XSS 0xF x 0x18 (by decide) (by decide), mem_opcodeMap _ rfl⟩
theorem addI (x : Idx) : Statement (.addI x) :=
  ⟨selects_XSS 0xF x 0x1E (by decide) (by decide), mem_opcodeMap _ rfl⟩
theorem ldFont (x : Idx) : Statement (.ldFont x) :=
  ⟨selects_XSS 0xF x 0x29 (by decide) (by decide), mem_opcodeMap _ rfl⟩
theorem ldBcd (x : Idx) : Statement (.ldBcd x) :=
  ⟨selects_XSS 0xF x 0x33 (by decide) (by decide), mem_opcodeMap _ rfl⟩
theorem dump (x : Idx) : Statement (.dump x) :=
  ⟨selects_XSS 0xF x 0x55 (by decide) (by decide), mem_opcodeMap _ rfl⟩
theorem load (x : Idx) : Statement (.load x) :=
  ⟨selects_XSS 0xF x 0x65 (by decide) (by decide), mem_opcodeMap _ rfl⟩

end Sys2Proof.Laws.RowOfEncoding
end

