-- ==== Sys2Proof/Laws/State.lean ====
section
/-! SUPPORT. One lemma per field per named update of State, true by rfl, and what each update does to the reads of a
register, a key and the base address, so that no proof unfolds a record update. -/

namespace Sys2Proof.Machine

variable (s : State)

/-! ### setReg -/

@[simp] theorem State.setReg_v (x : Idx) (b : Byte) : (s.setReg x b).v = s.v.set x.val b := rfl
@[simp] theorem State.setReg_i (x : Idx) (b : Byte) : (s.setReg x b).i = s.i := rfl
@[simp] theorem State.setReg_pc (x : Idx) (b : Byte) : (s.setReg x b).pc = s.pc := rfl
@[simp] theorem State.setReg_stack (x : Idx) (b : Byte) : (s.setReg x b).stack = s.stack := rfl
@[simp] theorem State.setReg_sp (x : Idx) (b : Byte) : (s.setReg x b).sp = s.sp := rfl
@[simp] theorem State.setReg_dt (x : Idx) (b : Byte) : (s.setReg x b).dt = s.dt := rfl
@[simp] theorem State.setReg_st (x : Idx) (b : Byte) : (s.setReg x b).st = s.st := rfl
@[simp] theorem State.setReg_keys (x : Idx) (b : Byte) : (s.setReg x b).keys = s.keys := rfl
@[simp] theorem State.setReg_fb (x : Idx) (b : Byte) : (s.setReg x b).fb = s.fb := rfl
@[simp] theorem State.setReg_mem (x : Idx) (b : Byte) : (s.setReg x b).mem = s.mem := rfl
@[simp] theorem State.setReg_runState (x : Idx) (b : Byte) : (s.setReg x b).runState = s.runState := rfl
@[simp] theorem State.setReg_draws (x : Idx) (b : Byte) : (s.setReg x b).draws = s.draws := rfl
@[simp] theorem State.setReg_schedule (x : Idx) (b : Byte) : (s.setReg x b).schedule = s.schedule := rfl
@[simp] theorem State.pressed_setReg (x : Idx) (b : Byte) (k : Idx) : (s.setReg x b).pressed k = s.pressed k := rfl
@[simp] theorem State.base_setReg (x : Idx) (b : Byte) : (s.setReg x b).base = s.base := rfl

/-! ### setFlag -/

@[simp] theorem State.setFlag_v (b : Byte) : (s.setFlag b).v = s.v.set 15 b := rfl
@[simp] theorem State.setFlag_i (b : Byte) : (s.setFlag b).i = s.i := rfl
@[simp] theorem State.setFlag_pc (b : Byte) : (s.setFlag b).pc = s.pc := rfl
@[simp] theorem State.setFlag_stack (b : Byte) : (s.setFlag b).stack = s.stack := rfl
@[simp] theorem State.setFlag_sp (b : Byte) : (s.setFlag b).sp = s.sp := rfl
@[simp] theorem State.setFlag_dt (b : Byte) : (s.setFlag b).dt = s.dt := rfl
@[simp] theorem State.setFlag_st (b : Byte) : (s.setFlag b).st = s.st := rfl
@[simp] theorem State.setFlag_keys (b : Byte) : (s.setFlag b).keys = s.keys := rfl
@[simp] theorem State.setFlag_fb (b : Byte) : (s.setFlag b).fb = s.fb := rfl
@[simp] theorem State.setFlag_mem (b : Byte) : (s.setFlag b).mem = s.mem := rfl
@[simp] theorem State.setFlag_runState (b : Byte) : (s.setFlag b).runState = s.runState := rfl
@[simp] theorem State.setFlag_draws (b : Byte) : (s.setFlag b).draws = s.draws := rfl
@[simp] theorem State.setFlag_schedule (b : Byte) : (s.setFlag b).schedule = s.schedule := rfl
@[simp] theorem State.pressed_setFlag (b : Byte) (k : Idx) : (s.setFlag b).pressed k = s.pressed k := rfl
@[simp] theorem State.base_setFlag (b : Byte) : (s.setFlag b).base = s.base := rfl

/-! ### setRegThenFlag -/

@[simp] theorem State.setRegThenFlag_v (x : Idx) (b c : Byte) : (s.setRegThenFlag x b c).v = (s.v.set x.val b).set 15 c := rfl
@[simp] theorem State.setRegThenFlag_i (x : Idx) (b c : Byte) : (s.setRegThenFlag x b c).i = s.i := rfl
@[simp] theorem State.setRegThenFlag_pc (x : Idx) (b c : Byte) : (s.setRegThenFlag x b c).pc = s.pc := rfl
@[simp] theorem State.setRegThenFlag_stack (x : Idx) (b c : Byte) : (s.setRegThenFlag x b c).stack = s.stack := rfl
@[simp] theorem State.setRegThenFlag_sp (x : Idx) (b c : Byte) : (s.setRegThenFlag x b c).sp = s.sp := rfl
@[simp] theorem State.setRegThenFlag_dt (x : Idx) (b c : Byte) : (s.setRegThenFlag x b c).dt = s.dt := rfl
@[simp] theorem State.setRegThenFlag_st (x : Idx) (b c : Byte) : (s.setRegThenFlag x b c).st = s.st := rfl
@[simp] theorem State.setRegThenFlag_keys (x : Idx) (b c : Byte) : (s.setRegThenFlag x b c).keys = s.keys := rfl
@[simp] theorem State.setRegThenFlag_fb (x : Idx) (b c : Byte) : (s.setRegThenFlag x b c).fb = s.fb := rfl
@[simp] theorem State.setRegThenFlag_mem (x : Idx) (b c : Byte) : (s.setRegThenFlag x b c).mem = s.mem := rfl
@[simp] theorem State.setRegThenFlag_runState (x : Idx) (b c : Byte) : (s.setRegThenFlag x b c).runState = s.runState := rfl
@[simp] theorem State.setRegThenFlag_draws (x : Idx) (b c : Byte) : (s.setRegThenFlag x b c).draws = s.draws := rfl
@[simp] theorem State.setRegThenFlag_schedule (x : Idx) (b c : Byte) : (s.setRegThenFlag x b c).schedule = s.schedule := rfl
@[simp] theorem State.pressed_setRegThenFlag (x : Idx) (b c : Byte) (k : Idx) : (s.setRegThenFlag x b c).pressed k = s.pressed k := rfl
@[simp] theorem State.base_setRegThenFlag (x : Idx) (b c : Byte) : (s.setRegThenFlag x b c).base = s.base := rfl

/-! ### setRegs -/

@[simp] theorem State.setRegs_v (v : Vector Byte 16) : (s.setRegs v).v = v := rfl
@[simp] theorem State.setRegs_i (v : Vector Byte 16) : (s.setRegs v).i = s.i := rfl
@[simp] theorem State.setRegs_pc (v : Vector Byte 16) : (s.setRegs v).pc = s.pc := rfl
@[simp] theorem State.setRegs_stack (v : Vector Byte 16) : (s.setRegs v).stack = s.stack := rfl
@[simp] theorem State.setRegs_sp (v : Vector Byte 16) : (s.setRegs v).sp = s.sp := rfl
@[simp] theorem State.setRegs_dt (v : Vector Byte 16) : (s.setRegs v).dt = s.dt := rfl
@[simp] theorem State.setRegs_st (v : Vector Byte 16) : (s.setRegs v).st = s.st := rfl
@[simp] theorem State.setRegs_keys (v : Vector Byte 16) : (s.setRegs v).keys = s.keys := rfl
@[simp] theorem State.setRegs_fb (v : Vector Byte 16) : (s.setRegs v).fb = s.fb := rfl
@[simp] theorem State.setRegs_mem (v : Vector Byte 16) : (s.setRegs v).mem = s.mem := rfl
@[simp] theorem State.setRegs_runState (v : Vector Byte 16) : (s.setRegs v).runState = s.runState := rfl
@[simp] theorem State.setRegs_draws (v : Vector Byte 16) : (s.setRegs v).draws = s.draws := rfl
@[simp] theorem State.setRegs_schedule (v : Vector Byte 16) : (s.setRegs v).schedule = s.schedule := rfl
@[simp] theorem State.pressed_setRegs (v : Vector Byte 16) (k : Idx) : (s.setRegs v).pressed k = s.pressed k := rfl
@[simp] theorem State.base_setRegs (v : Vector Byte 16) : (s.setRegs v).base = s.base := rfl

/-! ### setI -/

@[simp] theorem State.setI_v (w : Word) : (s.setI w).v = s.v := rfl
@[simp] theorem State.setI_i (w : Word) : (s.setI w).i = w := rfl
@[simp] theorem State.setI_pc (w : Word) : (s.setI w).pc = s.pc := rfl
@[simp] theorem State.setI_stack (w : Word) : (s.setI w).stack = s.stack := rfl
@[simp] theorem State.setI_sp (w : Word) : (s.setI w).sp = s.sp := rfl
@[simp] theorem State.setI_dt (w : Word) : (s.setI w).dt = s.dt := rfl
@[simp] theorem State.setI_st (w : Word) : (s.setI w).st = s.st := rfl
@[simp] theorem State.setI_keys (w : Word) : (s.setI w).keys = s.keys := rfl
@[simp] theorem State.setI_fb (w : Word) : (s.setI w).fb = s.fb := rfl
@[simp] theorem State.setI_mem (w : Word) : (s.setI w).mem = s.mem := rfl
@[simp] theorem State.setI_runState (w : Word) : (s.setI w).runState = s.runState := rfl
@[simp] theorem State.setI_draws (w : Word) : (s.setI w).draws = s.draws := rfl
@[simp] theorem State.setI_schedule (w : Word) : (s.setI w).schedule = s.schedule := rfl
@[simp] theorem State.reg_setI (w : Word) (y : Idx) : (s.setI w).reg y = s.reg y := rfl
@[simp] theorem State.pressed_setI (w : Word) (k : Idx) : (s.setI w).pressed k = s.pressed k := rfl

/-! ### setPc -/

@[simp] theorem State.setPc_v (w : Word) : (s.setPc w).v = s.v := rfl
@[simp] theorem State.setPc_i (w : Word) : (s.setPc w).i = s.i := rfl
@[simp] theorem State.setPc_pc (w : Word) : (s.setPc w).pc = w := rfl
@[simp] theorem State.setPc_stack (w : Word) : (s.setPc w).stack = s.stack := rfl
@[simp] theorem State.setPc_sp (w : Word) : (s.setPc w).sp = s.sp := rfl
@[simp] theorem State.setPc_dt (w : Word) : (s.setPc w).dt = s.dt := rfl
@[simp] theorem State.setPc_st (w : Word) : (s.setPc w).st = s.st := rfl
@[simp] theorem State.setPc_keys (w : Word) : (s.setPc w).keys = s.keys := rfl
@[simp] theorem State.setPc_fb (w : Word) : (s.setPc w).fb = s.fb := rfl
@[simp] theorem State.setPc_mem (w : Word) : (s.setPc w).mem = s.mem := rfl
@[simp] theorem State.setPc_runState (w : Word) : (s.setPc w).runState = s.runState := rfl
@[simp] theorem State.setPc_draws (w : Word) : (s.setPc w).draws = s.draws := rfl
@[simp] theorem State.setPc_schedule (w : Word) : (s.setPc w).schedule = s.schedule := rfl
@[simp] theorem State.reg_setPc (w : Word) (y : Idx) : (s.setPc w).reg y = s.reg y := rfl
@[simp] theorem State.pressed_setPc (w : Word) (k : Idx) : (s.setPc w).pressed k = s.pressed k := rfl
@[simp] theorem State.base_setPc (w : Word) : (s.setPc w).base = s.base := rfl

/-! ### advance -/

@[simp] theorem State.advance_v : (s.advance).v = s.v := rfl
@[simp] theorem State.advance_i : (s.advance).i = s.i := rfl
@[simp] theorem State.advance_pc : (s.advance).pc = s.pc + 2 := rfl
@[simp] theorem State.advance_stack : (s.advance).stack = s.stack := rfl
@[simp] theorem State.advance_sp : (s.advance).sp = s.sp := rfl
@[simp] theorem State.advance_dt : (s.advance).dt = s.dt := rfl
@[simp] theorem State.advance_st : (s.advance).st = s.st := rfl
@[simp] theorem State.advance_keys : (s.advance).keys = s.keys := rfl
@[simp] theorem State.advance_fb : (s.advance).fb = s.fb := rfl
@[simp] theorem State.advance_mem : (s.advance).mem = s.mem := rfl
@[simp] theorem State.advance_runState : (s.advance).runState = s.runState := rfl
@[simp] theorem State.advance_draws : (s.advance).draws = s.draws := rfl
@[simp] theorem State.advance_schedule : (s.advance).schedule = s.schedule := rfl
@[simp] theorem State.reg_advance (y : Idx) : (s.advance).reg y = s.reg y := rfl
@[simp] theorem State.pressed_advance (k : Idx) : (s.advance).pressed k = s.pressed k := rfl
@[simp] theorem State.base_advance : (s.advance).base = s.base := rfl

/-! ### skipIf -/

@[simp] theorem State.skipIf_v (c : Bool) : (s.skipIf c).v = s.v := rfl
@[simp] theorem State.skipIf_i (c : Bool) : (s.skipIf c).i = s.i := rfl
@[simp] theorem State.skipIf_pc (c : Bool) : (s.skipIf c).pc = if c then s.pc + 4 else s.pc + 2 := rfl
@[simp] theorem State.skipIf_stack (c : Bool) : (s.skipIf c).stack = s.stack := rfl
@[simp] theorem State.skipIf_sp (c : Bool) : (s.skipIf c).sp = s.sp := rfl
@[simp] theorem State.skipIf_dt (c : Bool) : (s.skipIf c).dt = s.dt := rfl
@[simp] theorem State.skipIf_st (c : Bool) : (s.skipIf c).st = s.st := rfl
@[simp] theorem State.skipIf_keys (c : Bool) : (s.skipIf c).keys = s.keys := rfl
@[simp] theorem State.skipIf_fb (c : Bool) : (s.skipIf c).fb = s.fb := rfl
@[simp] theorem State.skipIf_mem (c : Bool) : (s.skipIf c).mem = s.mem := rfl
@[simp] theorem State.skipIf_runState (c : Bool) : (s.skipIf c).runState = s.runState := rfl
@[simp] theorem State.skipIf_draws (c : Bool) : (s.skipIf c).draws = s.draws := rfl
@[simp] theorem State.skipIf_schedule (c : Bool) : (s.skipIf c).schedule = s.schedule := rfl
@[simp] theorem State.reg_skipIf (c : Bool) (y : Idx) : (s.skipIf c).reg y = s.reg y := rfl
@[simp] theorem State.pressed_skipIf (c : Bool) (k : Idx) : (s.skipIf c).pressed k = s.pressed k := rfl
@[simp] theorem State.base_skipIf (c : Bool) : (s.skipIf c).base = s.base := rfl

/-! ### setDt -/

@[simp] theorem State.setDt_v (b : Byte) : (s.setDt b).v = s.v := rfl
@[simp] theorem State.setDt_i (b : Byte) : (s.setDt b).i = s.i := rfl
@[simp] theorem State.setDt_pc (b : Byte) : (s.setDt b).pc = s.pc := rfl
@[simp] theorem State.setDt_stack (b : Byte) : (s.setDt b).stack = s.stack := rfl
@[simp] theorem State.setDt_sp (b : Byte) : (s.setDt b).sp = s.sp := rfl
@[simp] theorem State.setDt_dt (b : Byte) : (s.setDt b).dt = b := rfl
@[simp] theorem State.setDt_st (b : Byte) : (s.setDt b).st = s.st := rfl
@[simp] theorem State.setDt_keys (b : Byte) : (s.setDt b).keys = s.keys := rfl
@[simp] theorem State.setDt_fb (b : Byte) : (s.setDt b).fb = s.fb := rfl
@[simp] theorem State.setDt_mem (b : Byte) : (s.setDt b).mem = s.mem := rfl
@[simp] theorem State.setDt_runState (b : Byte) : (s.setDt b).runState = s.runState := rfl
@[simp] theorem State.setDt_draws (b : Byte) : (s.setDt b).draws = s.draws := rfl
@[simp] theorem State.setDt_schedule (b : Byte) : (s.setDt b).schedule = s.schedule := rfl
@[simp] theorem State.reg_setDt (b : Byte) (y : Idx) : (s.setDt b).reg y = s.reg y := rfl
@[simp] theorem State.pressed_setDt (b : Byte) (k : Idx) : (s.setDt b).pressed k = s.pressed k := rfl
@[simp] theorem State.base_setDt (b : Byte) : (s.setDt b).base = s.base := rfl

/-! ### setSt -/

@[simp] theorem State.setSt_v (b : Byte) : (s.setSt b).v = s.v := rfl
@[simp] theorem State.setSt_i (b : Byte) : (s.setSt b).i = s.i := rfl
@[simp] theorem State.setSt_pc (b : Byte) : (s.setSt b).pc = s.pc := rfl
@[simp] theorem State.setSt_stack (b : Byte) : (s.setSt b).stack = s.stack := rfl
@[simp] theorem State.setSt_sp (b : Byte) : (s.setSt b).sp = s.sp := rfl
@[simp] theorem State.setSt_dt (b : Byte) : (s.setSt b).dt = s.dt := rfl
@[simp] theorem State.setSt_st (b : Byte) : (s.setSt b).st = b := rfl
@[simp] theorem State.setSt_keys (b : Byte) : (s.setSt b).keys = s.keys := rfl
@[simp] theorem State.setSt_fb (b : Byte) : (s.setSt b).fb = s.fb := rfl
@[simp] theorem State.setSt_mem (b : Byte) : (s.setSt b).mem = s.mem := rfl
@[simp] theorem State.setSt_runState (b : Byte) : (s.setSt b).runState = s.runState := rfl
@[simp] theorem State.setSt_draws (b : Byte) : (s.setSt b).draws = s.draws := rfl
@[simp] theorem State.setSt_schedule (b : Byte) : (s.setSt b).schedule = s.schedule := rfl
@[simp] theorem State.reg_setSt (b : Byte) (y : Idx) : (s.setSt b).reg y = s.reg y := rfl
@[simp] theorem State.pressed_setSt (b : Byte) (k : Idx) : (s.setSt b).pressed k = s.pressed k := rfl
@[simp] theorem State.base_setSt (b : Byte) : (s.setSt b).base = s.base := rfl

/-! ### setKey -/

@[simp] theorem State.setKey_v (k : Idx) (p : Bool) : (s.setKey k p).v = s.v := rfl
@[simp] theorem State.setKey_i (k : Idx) (p : Bool) : (s.setKey k p).i = s.i := rfl
@[simp] theorem State.setKey_pc (k : Idx) (p : Bool) : (s.setKey k p).pc = s.pc := rfl
@[simp] theorem State.setKey_stack (k : Idx) (p : Bool) : (s.setKey k p).stack = s.stack := rfl
@[simp] theorem State.setKey_sp (k : Idx) (p : Bool) : (s.setKey k p).sp = s.sp := rfl
@[simp] theorem State.setKey_dt (k : Idx) (p : Bool) : (s.setKey k p).dt = s.dt := rfl
@[simp] theorem State.setKey_st (k : Idx) (p : Bool) : (s.setKey k p).st = s.st := rfl
@[simp] theorem State.setKey_keys (k : Idx) (p : Bool) : (s.setKey k p).keys = s.keys.set k.val p := rfl
@[simp] theorem State.setKey_fb (k : Idx) (p : Bool) : (s.setKey k p).fb = s.fb := rfl
@[simp] theorem State.setKey_mem (k : Idx) (p : Bool) : (s.setKey k p).mem = s.mem := rfl
@[simp] theorem State.setKey_runState (k : Idx) (p : Bool) : (s.setKey k p).runState = s.runState := rfl
@[simp] theorem State.setKey_draws (k : Idx) (p : Bool) : (s.setKey k p).draws = s.draws := rfl
@[simp] theorem State.setKey_schedule (k : Idx) (p : Bool) : (s.setKey k p).schedule = s.schedule := rfl
@[simp] theorem State.reg_setKey (k : Idx) (p : Bool) (y : Idx) : (s.setKey k p).reg y = s.reg y := rfl
@[simp] theorem State.base_setKey (k : Idx) (p : Bool) : (s.setKey k p).base = s.base := rfl

/-! ### setFb -/

@[simp] theorem State.setFb_v (f : Framebuffer) : (s.setFb f).v = s.v := rfl
@[simp] theorem State.setFb_i (f : Framebuffer) : (s.setFb f).i = s.i := rfl
@[simp] theorem State.setFb_pc (f : Framebuffer) : (s.setFb f).pc = s.pc := rfl
@[simp] theorem State.setFb_stack (f : Framebuffer) : (s.setFb f).stack = s.stack := rfl
@[simp] theorem State.setFb_sp (f : Framebuffer) : (s.setFb f).sp = s.sp := rfl
@[simp] theorem State.setFb_dt (f : Framebuffer) : (s.setFb f).dt = s.dt := rfl
@[simp] theorem State.setFb_st (f : Framebuffer) : (s.setFb f).st = s.st := rfl
@[simp] theorem State.setFb_keys (f : Framebuffer) : (s.setFb f).keys = s.keys := rfl
@[simp] theorem State.setFb_fb (f : Framebuffer) : (s.setFb f).fb = f := rfl
@[simp] theorem State.setFb_mem (f : Framebuffer) : (s.setFb f).mem = s.mem := rfl
@[simp] theorem State.setFb_runState (f : Framebuffer) : (s.setFb f).runState = s.runState := rfl
@[simp] theorem State.setFb_draws (f : Framebuffer) : (s.setFb f).draws = s.draws := rfl
@[simp] theorem State.setFb_schedule (f : Framebuffer) : (s.setFb f).schedule = s.schedule := rfl
@[simp] theorem State.reg_setFb (f : Framebuffer) (y : Idx) : (s.setFb f).reg y = s.reg y := rfl
@[simp] theorem State.pressed_setFb (f : Framebuffer) (k : Idx) : (s.setFb f).pressed k = s.pressed k := rfl
@[simp] theorem State.base_setFb (f : Framebuffer) : (s.setFb f).base = s.base := rfl

/-! ### setMem -/

@[simp] theorem State.setMem_v (m : Memory) : (s.setMem m).v = s.v := rfl
@[simp] theorem State.setMem_i (m : Memory) : (s.setMem m).i = s.i := rfl
@[simp] theorem State.setMem_pc (m : Memory) : (s.setMem m).pc = s.pc := rfl
@[simp] theorem State.setMem_stack (m : Memory) : (s.setMem m).stack = s.stack := rfl
@[simp] theorem State.setMem_sp (m : Memory) : (s.setMem m).sp = s.sp := rfl
@[simp] theorem State.setMem_dt (m : Memory) : (s.setMem m).dt = s.dt := rfl
@[simp] theorem State.setMem_st (m : Memory) : (s.setMem m).st = s.st := rfl
@[simp] theorem State.setMem_keys (m : Memory) : (s.setMem m).keys = s.keys := rfl
@[simp] theorem State.setMem_fb (m : Memory) : (s.setMem m).fb = s.fb := rfl
@[simp] theorem State.setMem_mem (m : Memory) : (s.setMem m).mem = m := rfl
@[simp] theorem State.setMem_runState (m : Memory) : (s.setMem m).runState = s.runState := rfl
@[simp] theorem State.setMem_draws (m : Memory) : (s.setMem m).draws = s.draws := rfl
@[simp] theorem State.setMem_schedule (m : Memory) : (s.setMem m).schedule = s.schedule := rfl
@[simp] theorem State.reg_setMem (m : Memory) (y : Idx) : (s.setMem m).reg y = s.reg y := rfl
@[simp] theorem State.pressed_setMem (m : Memory) (k : Idx) : (s.setMem m).pressed k = s.pressed k := rfl
@[simp] theorem State.base_setMem (m : Memory) : (s.setMem m).base = s.base := rfl

/-! ### setSchedule -/

@[simp] theorem State.setSchedule_v (ts : List Transaction) : (s.setSchedule ts).v = s.v := rfl
@[simp] theorem State.setSchedule_i (ts : List Transaction) : (s.setSchedule ts).i = s.i := rfl
@[simp] theorem State.setSchedule_pc (ts : List Transaction) : (s.setSchedule ts).pc = s.pc := rfl
@[simp] theorem State.setSchedule_stack (ts : List Transaction) : (s.setSchedule ts).stack = s.stack := rfl
@[simp] theorem State.setSchedule_sp (ts : List Transaction) : (s.setSchedule ts).sp = s.sp := rfl
@[simp] theorem State.setSchedule_dt (ts : List Transaction) : (s.setSchedule ts).dt = s.dt := rfl
@[simp] theorem State.setSchedule_st (ts : List Transaction) : (s.setSchedule ts).st = s.st := rfl
@[simp] theorem State.setSchedule_keys (ts : List Transaction) : (s.setSchedule ts).keys = s.keys := rfl
@[simp] theorem State.setSchedule_fb (ts : List Transaction) : (s.setSchedule ts).fb = s.fb := rfl
@[simp] theorem State.setSchedule_mem (ts : List Transaction) : (s.setSchedule ts).mem = s.mem := rfl
@[simp] theorem State.setSchedule_runState (ts : List Transaction) : (s.setSchedule ts).runState = s.runState := rfl
@[simp] theorem State.setSchedule_draws (ts : List Transaction) : (s.setSchedule ts).draws = s.draws := rfl
@[simp] theorem State.setSchedule_schedule (ts : List Transaction) : (s.setSchedule ts).schedule = ts := rfl
@[simp] theorem State.reg_setSchedule (ts : List Transaction) (y : Idx) : (s.setSchedule ts).reg y = s.reg y := rfl
@[simp] theorem State.pressed_setSchedule (ts : List Transaction) (k : Idx) : (s.setSchedule ts).pressed k = s.pressed k := rfl
@[simp] theorem State.base_setSchedule (ts : List Transaction) : (s.setSchedule ts).base = s.base := rfl

/-! ### push -/

@[simp] theorem State.push_v (w : Word) : (s.push w).v = s.v := rfl
@[simp] theorem State.push_i (w : Word) : (s.push w).i = s.i := rfl
@[simp] theorem State.push_pc (w : Word) : (s.push w).pc = s.pc := rfl
@[simp] theorem State.push_stack (w : Word) : (s.push w).stack = s.stack.setIfInBounds s.sp w := rfl
@[simp] theorem State.push_sp (w : Word) : (s.push w).sp = s.sp + 1 := rfl
@[simp] theorem State.push_dt (w : Word) : (s.push w).dt = s.dt := rfl
@[simp] theorem State.push_st (w : Word) : (s.push w).st = s.st := rfl
@[simp] theorem State.push_keys (w : Word) : (s.push w).keys = s.keys := rfl
@[simp] theorem State.push_fb (w : Word) : (s.push w).fb = s.fb := rfl
@[simp] theorem State.push_mem (w : Word) : (s.push w).mem = s.mem := rfl
@[simp] theorem State.push_runState (w : Word) : (s.push w).runState = s.runState := rfl
@[simp] theorem State.push_draws (w : Word) : (s.push w).draws = s.draws := rfl
@[simp] theorem State.push_schedule (w : Word) : (s.push w).schedule = s.schedule := rfl
@[simp] theorem State.reg_push (w : Word) (y : Idx) : (s.push w).reg y = s.reg y := rfl
@[simp] theorem State.pressed_push (w : Word) (k : Idx) : (s.push w).pressed k = s.pressed k := rfl
@[simp] theorem State.base_push (w : Word) : (s.push w).base = s.base := rfl

/-! ### pop -/

@[simp] theorem State.pop_v : (s.pop).v = s.v := rfl
@[simp] theorem State.pop_i : (s.pop).i = s.i := rfl
@[simp] theorem State.pop_pc : (s.pop).pc = s.pc := rfl
@[simp] theorem State.pop_stack : (s.pop).stack = s.stack := rfl
@[simp] theorem State.pop_sp : (s.pop).sp = s.sp - 1 := rfl
@[simp] theorem State.pop_dt : (s.pop).dt = s.dt := rfl
@[simp] theorem State.pop_st : (s.pop).st = s.st := rfl
@[simp] theorem State.pop_keys : (s.pop).keys = s.keys := rfl
@[simp] theorem State.pop_fb : (s.pop).fb = s.fb := rfl
@[simp] theorem State.pop_mem : (s.pop).mem = s.mem := rfl
@[simp] theorem State.pop_runState : (s.pop).runState = s.runState := rfl
@[simp] theorem State.pop_draws : (s.pop).draws = s.draws := rfl
@[simp] theorem State.pop_schedule : (s.pop).schedule = s.schedule := rfl
@[simp] theorem State.reg_pop (y : Idx) : (s.pop).reg y = s.reg y := rfl
@[simp] theorem State.pressed_pop (k : Idx) : (s.pop).pressed k = s.pressed k := rfl
@[simp] theorem State.base_pop : (s.pop).base = s.base := rfl

/-! ### consumeRandom -/

@[simp] theorem State.consumeRandom_v : (s.consumeRandom).v = s.v := rfl
@[simp] theorem State.consumeRandom_i : (s.consumeRandom).i = s.i := rfl
@[simp] theorem State.consumeRandom_pc : (s.consumeRandom).pc = s.pc := rfl
@[simp] theorem State.consumeRandom_stack : (s.consumeRandom).stack = s.stack := rfl
@[simp] theorem State.consumeRandom_sp : (s.consumeRandom).sp = s.sp := rfl
@[simp] theorem State.consumeRandom_dt : (s.consumeRandom).dt = s.dt := rfl
@[simp] theorem State.consumeRandom_st : (s.consumeRandom).st = s.st := rfl
@[simp] theorem State.consumeRandom_keys : (s.consumeRandom).keys = s.keys := rfl
@[simp] theorem State.consumeRandom_fb : (s.consumeRandom).fb = s.fb := rfl
@[simp] theorem State.consumeRandom_mem : (s.consumeRandom).mem = s.mem := rfl
@[simp] theorem State.consumeRandom_runState : (s.consumeRandom).runState = s.runState := rfl
@[simp] theorem State.consumeRandom_draws : (s.consumeRandom).draws = s.draws + 1 := rfl
@[simp] theorem State.consumeRandom_schedule : (s.consumeRandom).schedule = s.schedule := rfl
@[simp] theorem State.reg_consumeRandom (y : Idx) : (s.consumeRandom).reg y = s.reg y := rfl
@[simp] theorem State.pressed_consumeRandom (k : Idx) : (s.consumeRandom).pressed k = s.pressed k := rfl
@[simp] theorem State.base_consumeRandom : (s.consumeRandom).base = s.base := rfl

/-! ### raise -/

@[simp] theorem State.raise_v (r : FaultRecord) : (s.raise r).v = s.v := rfl
@[simp] theorem State.raise_i (r : FaultRecord) : (s.raise r).i = s.i := rfl
@[simp] theorem State.raise_pc (r : FaultRecord) : (s.raise r).pc = s.pc := rfl
@[simp] theorem State.raise_stack (r : FaultRecord) : (s.raise r).stack = s.stack := rfl
@[simp] theorem State.raise_sp (r : FaultRecord) : (s.raise r).sp = s.sp := rfl
@[simp] theorem State.raise_dt (r : FaultRecord) : (s.raise r).dt = s.dt := rfl
@[simp] theorem State.raise_st (r : FaultRecord) : (s.raise r).st = s.st := rfl
@[simp] theorem State.raise_keys (r : FaultRecord) : (s.raise r).keys = s.keys := rfl
@[simp] theorem State.raise_fb (r : FaultRecord) : (s.raise r).fb = s.fb := rfl
@[simp] theorem State.raise_mem (r : FaultRecord) : (s.raise r).mem = s.mem := rfl
@[simp] theorem State.raise_runState (r : FaultRecord) : (s.raise r).runState = .faulted r := rfl
@[simp] theorem State.raise_draws (r : FaultRecord) : (s.raise r).draws = s.draws := rfl
@[simp] theorem State.raise_schedule (r : FaultRecord) : (s.raise r).schedule = s.schedule := rfl
@[simp] theorem State.reg_raise (r : FaultRecord) (y : Idx) : (s.raise r).reg y = s.reg y := rfl
@[simp] theorem State.pressed_raise (r : FaultRecord) (k : Idx) : (s.raise r).pressed k = s.pressed k := rfl
@[simp] theorem State.base_raise (r : FaultRecord) : (s.raise r).base = s.base := rfl

/-! ### Reading back -/

theorem State.reg_setReg (x y : Idx) (b : Byte) : (s.setReg x b).reg y = if y = x then b else s.reg y := by
  simp only [State.reg, State.setReg_v, Vector.getElem_set, Fin.ext_iff, eq_comm]

@[simp] theorem State.reg_setReg_same (x : Idx) (b : Byte) : (s.setReg x b).reg x = b := by simp [State.reg_setReg]

theorem State.reg_setReg_other (x y : Idx) (b : Byte) (h : y ≠ x) : (s.setReg x b).reg y = s.reg y := by
  simp [State.reg_setReg, h]

theorem State.reg_setFlag (y : Idx) (b : Byte) : (s.setFlag b).reg y = if y = 15 then b else s.reg y :=
  State.reg_setReg s 15 y b

theorem State.reg_setRegThenFlag (x y : Idx) (b c : Byte) :
    (s.setRegThenFlag x b c).reg y = if y = 15 then c else if y = x then b else s.reg y := by
  rw [State.setRegThenFlag, State.reg_setFlag, State.reg_setReg]

theorem State.reg_setRegs (v : Vector Byte 16) (y : Idx) : (s.setRegs v).reg y = v[y.val] := rfl

theorem State.pressed_setKey (k j : Idx) (p : Bool) : (s.setKey k p).pressed j = if j = k then p else s.pressed j := by
  simp only [State.pressed, State.setKey_keys, Vector.getElem_set, Fin.ext_iff, eq_comm]

end Sys2Proof.Machine
end

