-- ==== Sys2Proof/Laws/Registers.lean ====
section
/-! SUPPORT. The laws of the operations over registers, stack, keypad and decimal digits. -/

namespace Sys2Proof.Machine

/-- Consecutive registers from number `i` take the bytes in order; the others keep their value. -/
theorem getElem_setRegsFrom (bs : List Byte) (i : Nat) (v : Vector Byte 16) (y : Nat) (hy : y < 16) :
    (setRegsFrom i bs v)[y] = if i ≤ y ∧ y < i + bs.length then bs.getD (y - i) 0 else v[y] := by
  induction bs generalizing i v with
  | nil => simp [setRegsFrom]
  | cons b bs ih =>
    rw [setRegsFrom, ih, Vector.getElem_setIfInBounds]
    rcases Nat.lt_trichotomy y i with h | rfl | h
    · rw [if_neg (by omega), if_neg (by omega), if_neg (by simp; omega)]
    · rw [if_neg (by omega), if_pos rfl, if_pos (by simp)]; simp
    · obtain ⟨k, rfl⟩ : ∃ k, y = i + 1 + k := ⟨y - i - 1, by omega⟩
      have h1 : i + 1 + k - i = k + 1 := by omega
      have h2 : i + 1 + k - (i + 1) = k := by omega
      rw [h1, h2, List.getD_cons_succ, if_neg (show i ≠ i + 1 + k by omega)]
      exact if_congr (by simp only [List.length_cons]; omega) rfl rfl

/-- LD Vx,[I] gives V0 .. Vx the bytes from `a` on and leaves the registers above Vx. -/
theorem State.reg_setRegsFrom_readBytes (s : State) (a : Nat) (x y : Idx) :
    (s.setRegs (setRegsFrom 0 (s.mem.readBytes a (x.val + 1)) s.v)).reg y =
      if y.val ≤ x.val then s.mem.read (a + y.val) else s.reg y := by
  rw [State.reg_setRegs, getElem_setRegsFrom]
  rw [Memory.length_readBytes]
  refine if_ctx_congr (by omega) (fun h => ?_) fun _ => rfl
  have hk : y.val < (s.mem.readBytes a (x.val + 1)).length := by rw [Memory.length_readBytes]; omega
  rw [Nat.sub_zero, List.getD_eq_getElem _ _ hk, Memory.getElem_readBytes]

@[simp] theorem State.length_regsUpTo (s : State) (x : Idx) : (s.regsUpTo x).length = x.val + 1 := by
  simp [State.regsUpTo]

/-- Byte k of the dump of V0 .. Vx is Vk. -/
theorem State.getD_regsUpTo (s : State) (x y : Idx) (h : y.val ≤ x.val) : (s.regsUpTo x).getD y.val 0 = s.reg y := by
  have hk : y.val < (s.regsUpTo x).length := by rw [State.length_regsUpTo]; omega
  rw [List.getD_eq_getElem _ _ hk]
  simp [State.regsUpTo, State.reg]

@[simp] theorem length_bcdDigits (b : Byte) : (bcdDigits b).length = 3 := rfl

/-- The key LD Vx,K stores is pressed, and no lesser key is (44_keypad_timer.md R193). -/
theorem State.leastPressed_eq_some {s : State} {k : Idx} (h : s.leastPressed = some k) :
    s.pressed k = true ∧ ∀ j, j < k → s.pressed j = false := by
  have h2 := List.find?_eq_some_iff_getElem.mp h
  obtain ⟨hp, i, hi, hk, hl⟩ := h2
  refine ⟨hp, fun j hj => ?_⟩
  simp only [List.getElem_finRange] at hk hl
  have hki : k.val = i := by rw [← hk]; rfl
  have := hl j.val (by rw [← hki]; exact hj)
  simpa using this

/-- No key is found exactly when none is pressed. -/
theorem State.leastPressed_eq_none {s : State} : s.leastPressed = none ↔ ∀ k, s.pressed k = false := by
  simp [State.leastPressed]

/-- RET after CALL finds the pushed word. -/
@[simp] theorem State.top_push (s : State) (w : Word) (h : s.sp < 16) : (s.push w).top = w := by
  simp [State.top, h]

/-- The entry RET reads, inside the stack. -/
theorem State.top_eq (s : State) (h : s.sp - 1 < 16) : s.top = s.stack[s.sp - 1] := by
  simp [State.top, h]

/-- CALL changes the one entry it pushes. -/
theorem State.push_stack_getElem (s : State) (w : Word) (j : Nat) (hj : j < 16) :
    (s.push w).stack[j] = if s.sp = j then w else s.stack[j] := by
  simp [Vector.getElem_setIfInBounds]

end Sys2Proof.Machine
end

