-- ==== Sys2Proof/Laws/Step.lean ====
section
/-! SUPPORT. What each shared operation and each layer of a step can do, said once: the store through I, the range and font
checks, the STEP of a Running core, a transaction, a step. -/

namespace Sys2Proof.Machine

theorem rangeOk_iff (base len : Nat) : rangeOk base len = true ↔ base + len ≤ 0x1000 := by simp [rangeOk]

theorem inFont_iff (a : Nat) : inFont a = true ↔ fontBase ≤ a ∧ a < fontBase + 80 := by simp [inFont]

/-- No byte of the access is in the font region. -/
theorem fontHit_eq_none (base len : Nat) :
    fontHit base len = none ↔ ∀ a, base ≤ a → a < base + len → inFont a = false := by
  unfold fontHit
  simp only [fontSize]
  split
  · next h =>
    simp only [reduceCtorEq, false_iff, not_forall]
    refine ⟨max base fontBase, by omega, by omega, ?_⟩
    rw [Bool.not_eq_false, inFont_iff]; omega
  · next h =>
    simp only [true_iff]
    intro a h1 h2
    rw [Bool.eq_false_iff, ne_eq, inFont_iff]; omega

/-- The byte MEM_READONLY names: the lowest of the access inside the font region (60_exceptions.md R211). -/
theorem fontHit_eq_some {base len a : Nat} :
    fontHit base len = some a ↔
      base ≤ a ∧ a < base + len ∧ inFont a = true ∧ ∀ b, base ≤ b → b < a → inFont b = false := by
  unfold fontHit
  simp only [inFont_iff]
  constructor
  · intro h
    split at h
    · next hc =>
      cases h
      simp at hc
      refine ⟨by omega, by omega, by omega, fun b h1 h2 => ?_⟩
      rw [Bool.eq_false_iff, ne_eq, inFont_iff]; omega
    · cases h
  · rintro ⟨h1, h2, h3, h4⟩
    rw [if_pos (by simp; omega)]
    congr 1
    by_contra hne
    have := h4 (a - 1) (by omega) (by omega)
    rw [Bool.eq_false_iff, ne_eq, inFont_iff] at this; omega

/-- The store of LD B and LD [I] faults on the range, or on the font region, or writes its bytes and advances
(42_index_memory.md R152, R153). -/
theorem State.storeAtI_cases (s : State) (w : Word) (bs : List Byte) :
    (0x1000 < s.base + bs.length ∧ s.storeAtI w bs = s.raise (.memRange s.pc w s.base bs.length)) ∨
    (∃ a, s.base + bs.length ≤ 0x1000 ∧ s.base ≤ a ∧ a < s.base + bs.length ∧ inFont a = true ∧
      (∀ b, s.base ≤ b → b < a → inFont b = false) ∧ s.storeAtI w bs = s.raise (.memReadonly s.pc w a)) ∨
    (s.base + bs.length ≤ 0x1000 ∧ (∀ a, s.base ≤ a → a < s.base + bs.length → inFont a = false) ∧
      s.storeAtI w bs = (s.setMem (s.mem.writeBytes s.base bs)).advance) := by
  unfold State.storeAtI
  by_cases hr : rangeOk s.base bs.length = true
  · have hr' := (rangeOk_iff _ _).mp hr
    rw [if_neg (by simp [hr])]
    right
    rcases hf : fontHit s.base bs.length with _ | a
    · exact .inr ⟨hr', (fontHit_eq_none _ _).mp hf, rfl⟩
    · left
      obtain ⟨h1, h2, h3, h4⟩ := fontHit_eq_some.mp hf
      exact ⟨a, hr', h1, h2, h3, h4, rfl⟩
  · left
    rw [if_pos (by simp [hr])]
    exact ⟨by rw [rangeOk_iff] at hr; omega, rfl⟩

/-- What DRW draws, in closed form: each sprite bit is XORed onto its pixel (43_display.md R171). -/
theorem State.pixel_drawn_on (s : State) (x y : Idx) (n r c : Nat) (hn : n ≤ 32) (hr : r < n) (hc : c < 8) :
    (s.drawn x y n).fb.pixel (Fin.ofNat 64 (startColumn (s.reg x) + c)) (Fin.ofNat 32 (startRow (s.reg y) + r)) =
      (s.fb.pixel (Fin.ofNat 64 (startColumn (s.reg x) + c)) (Fin.ofNat 32 (startRow (s.reg y) + r)) ^^
        (s.mem.read (s.base + r)).getLsbD (7 - c)) := by
  have h := Canvas.pixel_drawRows_on (startColumn (s.reg x)) (startRow (s.reg y)) 0 (s.mem.readBytes s.base n) r c
    ⟨s.fb, false⟩ (by simpa using hr) hc (by simpa using hn)
  rwa [Memory.getD_readBytes _ _ _ _ hr, Nat.zero_add] at h

/-- A pixel on which no 1 bit of the sprite lands keeps its value. -/
theorem State.pixel_drawn_off (s : State) (x y : Idx) (n : Nat) (a : Fin 64) (b : Fin 32)
    (h : ∀ r < n, ∀ c < 8, (s.mem.read (s.base + r)).getLsbD (7 - c) = true →
      ¬(a = Fin.ofNat 64 (startColumn (s.reg x) + c) ∧ b = Fin.ofNat 32 (startRow (s.reg y) + r))) :
    (s.drawn x y n).fb.pixel a b = s.fb.pixel a b := by
  refine Canvas.pixel_drawRows_off _ _ 0 _ a b ⟨s.fb, false⟩ fun j hj c hc hb => ?_
  have hj' : j < n := by simpa using hj
  rw [Memory.getD_readBytes _ _ _ _ hj'] at hb
  rw [Nat.zero_add]
  exact h j hj' c hc hb

/-- The collision flag of DRW: a 1 bit met a pixel that was on. -/
theorem State.collision_drawn (s : State) (x y : Idx) (n : Nat) (hn : n ≤ 32) :
    (s.drawn x y n).collision = true ↔ ∃ r < n, ∃ c < 8, (s.mem.read (s.base + r)).getLsbD (7 - c) = true ∧
      s.fb.pixel (Fin.ofNat 64 (startColumn (s.reg x) + c)) (Fin.ofNat 32 (startRow (s.reg y) + r)) = true := by
  refine (Canvas.collision_drawRows _ _ 0 _ ⟨s.fb, false⟩ (by simpa using hn)).trans ?_
  simp only [Bool.false_eq_true, false_or, Memory.length_readBytes, Nat.zero_add]
  constructor
  · rintro ⟨j, hj, c, hc, hb, hp⟩
    exact ⟨j, hj, c, hc, by rwa [Memory.getD_readBytes _ _ _ _ hj] at hb, hp⟩
  · rintro ⟨j, hj, c, hc, hb, hp⟩
    exact ⟨j, hj, c, hc, by rwa [Memory.getD_readBytes _ _ _ _ hj], hp⟩

/-- The STEP of a Running core: it faults on the fetch, or on the decode, or executes (30_encoding.md R80). -/
theorem State.runStep_cases (s : State) :
    (0xFFE < s.pc.toNat ∧ s.runStep = .next (s.raise (.fetchRange s.pc))) ∨
    (s.pc.toNat ≤ 0xFFE ∧ decode s.fetchWord = none ∧
      s.runStep = .next (s.raise (.decodeFault s.pc s.fetchWord))) ∨
    (∃ i, s.pc.toNat ≤ 0xFFE ∧ decode s.fetchWord = some i ∧ s.runStep = exec i s) := by
  unfold State.runStep State.fetchOk
  by_cases h : s.pc.toNat ≤ 0xFFE
  · rw [if_neg (by simp [h])]
    rcases hd : decode s.fetchWord with _ | i
    · exact .inr (.inl ⟨h, rfl, rfl⟩)
    · exact .inr (.inr ⟨i, h, rfl, rfl⟩)
  · rw [if_pos (by simp; omega)]
    exact .inl ⟨by omega, rfl⟩

/-- A step performs the host's next transaction, or a STEP when none is scheduled (60_exceptions.md R221). -/
theorem step_nil {s : State} (h : s.schedule = []) : step s = s.stepCore := by simp [step, h]

theorem step_cons {s : State} {t : Transaction} {ts : List Transaction} (h : s.schedule = t :: ts) :
    step s = (s.setSchedule ts).transact t := by simp [step, h]

theorem State.stepCore_running {s : State} (h : s.runState = .running) : s.stepCore = s.runStep := by
  simp [State.stepCore, h]

theorem State.stepCore_faulted {s : State} {r : FaultRecord} (h : s.runState = .faulted r) :
    s.stepCore = .fault (.latched r) := by simp [State.stepCore, h]

theorem State.transact_step_running {s : State} (h : s.runState = .running) : s.transact .step = s.runStep := by
  simp [State.transact, h]

theorem State.transact_step_faulted {s : State} {r : FaultRecord} (h : s.runState = .faulted r) :
    s.transact .step = .next s := by simp [State.transact, h]

/-- The fetched word as a number (20_memory.md R58). -/
theorem State.fetchWord_eq (s : State) :
    s.fetchWord = BitVec.ofNat 16 ((s.mem.read s.pc.toNat).toNat * 256 + (s.mem.read (s.pc.toNat + 1)).toNat) := by
  apply BitVec.eq_of_toNat_eq
  have h1 := (s.mem.read s.pc.toNat).isLt
  have h2 := (s.mem.read (s.pc.toNat + 1)).isLt
  rw [State.fetchWord, toNat_wordOfBytes, BitVec.toNat_ofNat]
  omega

end Sys2Proof.Machine
end

