-- ==== Sys2Proof/Laws/Run.lean ====
section
/-! SUPPORT. The runs of the machine, step by step: an induction over a run cites these and never unfolds the host's
interface. -/

namespace Sys2Proof.Machine

theorem run_zero (s : State) : Sys2Proof.core.run 0 s = .next s := rfl

theorem run_succ_of_next {s t : State} (h : step s = .next t) (k : Nat) :
    Sys2Proof.core.run (k + 1) s = Sys2Proof.core.run k t := by
  have h' : Sys2Proof.core.step s = .next t := h
  simp only [Host.Core.run, h']

/-- A property that every step keeps holds at the end of every run from a state that has it. -/
theorem run_induction {P : State → Prop} (hstep : ∀ s t, P s → step s = .next t → P t) (k : Nat) (s t : State)
    (hs : P s) (h : Sys2Proof.core.run k s = .next t) : P t := by
  induction k generalizing s with
  | zero => cases h; exact hs
  | succ n ih =>
    rcases hst : step s with s' | r | r
    · rw [run_succ_of_next hst] at h
      exact ih s' (hstep s s' hs hst) h
    all_goals
      have hst' : Sys2Proof.core.step s = _ := hst
      simp only [Host.Core.run, hst'] at h
      cases h

/-- A state that a step leaves as it is stays for ever. -/
theorem run_of_fixpoint {s : State} (h : step s = .next s) (k : Nat) : Sys2Proof.core.run k s = .next s := by
  induction k with
  | zero => rfl
  | succ n ih => rw [run_succ_of_next h, ih]

end Sys2Proof.Machine
end

