-- ==== Sys2Proof/Tests/Slice0.lean ====
section
/-! SUPPORT. The model's own tests: the check of WellFormed, one word of every instruction written out from the patterns of
30_encoding.md R75, one step of every instruction with a result from 95_test_vectors.md, and a witness for the hypotheses of
every statement. -/

namespace Sys2Proof.Tests

open Sys2Proof Sys2Proof.Machine Sys2Proof.Claims

/-! ## WellFormed -/

theorem test_wellFormed_refuses_sixteen_rows : Instr.wellFormed (.drw 0 0 16) = false := by decide

theorem test_wellFormed_takes_fifteen_rows : Instr.wellFormed (.drw 0 0 15) = true := by decide

/-! ## Decoding: each word from its pattern in 30_encoding.md R75 -/

theorem test_decode_cls : decode 0b0000000011100000#16 = some (.cls) := by decide
theorem test_decode_ret : decode 0b0000000011101110#16 = some (.ret) := by decide
theorem test_decode_jp : decode 0b0001101010111100#16 = some (.jp 0xABC) := by decide
theorem test_decode_call : decode 0b0010111111111111#16 = some (.call 0xFFF) := by decide
theorem test_decode_seByte : decode 0b0011010100000001#16 = some (.seByte 5 0x01) := by decide
theorem test_decode_sneByte : decode 0b0100111110000000#16 = some (.sneByte 15 0x80) := by decide
theorem test_decode_seReg : decode 0b0101000100100000#16 = some (.seReg 1 2) := by decide
theorem test_decode_ldByte : decode 0b0110101011111111#16 = some (.ldByte 10 0xFF) := by decide
theorem test_decode_addByte : decode 0b0111000000000010#16 = some (.addByte 0 0x02) := by decide
theorem test_decode_ldReg : decode 0b1000000100100000#16 = some (.ldReg 1 2) := by decide
theorem test_decode_orReg : decode 0b1000001101000001#16 = some (.orReg 3 4) := by decide
theorem test_decode_andReg : decode 0b1000010101100010#16 = some (.andReg 5 6) := by decide
theorem test_decode_xorReg : decode 0b1000011110000011#16 = some (.xorReg 7 8) := by decide
theorem test_decode_addReg : decode 0b1000101010110100#16 = some (.addReg 10 11) := by decide
theorem test_decode_subReg : decode 0b1000110011010101#16 = some (.subReg 12 13) := by decide
theorem test_decode_shr : decode 0b1000001100010110#16 = some (.shr 3 1) := by decide
theorem test_decode_subnReg : decode 0b1000001100100111#16 = some (.subnReg 3 2) := by decide
theorem test_decode_shl : decode 0b1000111100001110#16 = some (.shl 15 0) := by decide
theorem test_decode_sneReg : decode 0b1001011110010000#16 = some (.sneReg 7 9) := by decide
theorem test_decode_ldI : decode 0b1010001100000000#16 = some (.ldI 0x300) := by decide
theorem test_decode_jpV0 : decode 0b1011111111111110#16 = some (.jpV0 0xFFE) := by decide
theorem test_decode_rnd : decode 0b1100000100001111#16 = some (.rnd 1 0x0F) := by decide
theorem test_decode_drw : decode 0b1101001000110101#16 = some (.drw 2 3 5) := by decide
theorem test_decode_skp : decode 0b1110000110011110#16 = some (.skp 1) := by decide
theorem test_decode_sknp : decode 0b1110111110100001#16 = some (.sknp 15) := by decide
theorem test_decode_ldVxDt : decode 0b1111010100000111#16 = some (.ldVxDt 5) := by decide
theorem test_decode_ldVxKey : decode 0b1111001100001010#16 = some (.ldVxKey 3) := by decide
theorem test_decode_ldDtVx : decode 0b1111010100010101#16 = some (.ldDtVx 5) := by decide
theorem test_decode_ldStVx : decode 0b1111011000011000#16 = some (.ldStVx 6) := by decide
theorem test_decode_addI : decode 0b1111000000011110#16 = some (.addI 0) := by decide
theorem test_decode_ldFont : decode 0b1111001000101001#16 = some (.ldFont 2) := by decide
theorem test_decode_ldBcd : decode 0b1111100000110011#16 = some (.ldBcd 8) := by decide
theorem test_decode_dump : decode 0b1111111101010101#16 = some (.dump 15) := by decide
theorem test_decode_load : decode 0b1111010001100101#16 = some (.load 4) := by decide

/-- V-D1 to V-D8 and 0x5001 (95_test_vectors.md): words of the illegal space, by name. -/
theorem test_decode_illegal :
    [0x0000#16, 0x0123#16, 0x5001#16, 0x8008#16, 0x800F#16, 0x9001#16, 0xE000#16, 0xF000#16, 0xFFFF#16].all
      (fun w => decode w == none) = true := by decide

theorem test_decodeBytes_rest : decodeBytes [0x60, 0x01, 0xAA] = .ok (.ldByte 0 0x01, [0xAA]) := by rfl

theorem test_decodeBytes_rejects : decodeBytes [0x50, 0x01] = .error (.illegal 0x5001) ∧ decodeBytes [0x60] = .error .truncated :=
  ⟨rfl, rfl⟩

theorem test_tableWord : decodeTableWord 16 0xD125 = some (.drw 1 2 5) ∧ decodeTableWord 16 0x0123 = none := by decide

/-! ## One step of every instruction, from the vectors of 95_test_vectors.md section 2

`run w s p`: the word `w` placed at pc of `s` (0x200 after reset) steps to a state with `p`. -/

def run (w : Nat) (s : State) (p : State → Bool) : Bool :=
  match step (s.withFetchWord 16 w) with
  | .next t => p t
  | _ => false

/-- The state after RESET with some registers changed. -/
def regs (rs : List (Idx × Byte)) : State := rs.foldl (fun s r => s.setReg r.1 r.2) State.reset

/-- The same, with I. -/
def regsI (i : Word) (rs : List (Idx × Byte)) : State := (regs rs).setI i

/-- The same, with memory bytes from an address on. -/
def withMem (a : Nat) (bs : List Byte) (s : State) : State := s.setMem (s.mem.writeBytes a bs)

/-- V-G1. -/
theorem test_cls :
    (run 0x00E0 ((regs [(15, 7)]).setFb (Framebuffer.blank.flip 3 4)) fun t => !t.fb.pixel 3 4 && t.reg 15 == 7 && t.pc == 0x202) = true := by decide

/-- E9. -/
theorem test_ret_empty :
    (run 0x00EE State.reset fun t => t.runState == .faulted (.stackUnderflow 0x200 0) && t.sp == 0 && t.pc == 0x200) = true := by decide

/-- V-C6. -/
theorem test_ret :
    (run 0x00EE { State.reset with sp := 16, stack := State.reset.stack.set 15 0x402 } fun t => t.sp == 15 && t.pc == 0x402 && t.stack[15] == 0x402) = true := by decide

/-- V-C1. -/
theorem test_jp :
    (run 0x1ABC State.reset fun t => t.pc == 0xABC) = true := by decide

/-- V-C4. -/
theorem test_call :
    (run 0x2500 { State.reset with sp := 15, pc := 0x400 } fun t => t.stack[15] == 0x402 && t.sp == 16 && t.pc == 0x500) = true := by decide

/-- V-C5. -/
theorem test_call_full :
    (run 0x2500 { State.reset with sp := 16, pc := 0x400 } fun t => t.runState == .faulted (.stackOverflow 0x400 16) && t.sp == 16 && t.pc == 0x400) = true := by decide

/-- V-C11. -/
theorem test_seByte :
    (run 0x3F01 (regs [(15, 1)]) fun t => t.pc == 0x204) = true := by decide

/-- E7. -/
theorem test_seByte_not :
    (run 0x3341 (regs [(3, 0x42)]) fun t => t.pc == 0x202) = true := by decide

/-- V-C10. -/
theorem test_sneByte :
    (run 0x4500 (regs [(5, 1)]) fun t => t.pc == 0x204) = true := by decide

/-- V-C9. -/
theorem test_sneByte_not :
    (run 0x4501 (regs [(5, 1)]) fun t => t.pc == 0x202) = true := by decide

/-- V-C12. -/
theorem test_seReg_same :
    (run 0x5770 State.reset fun t => t.pc == 0x204) = true := by decide

/-- V-C14. -/
theorem test_seReg_not :
    (run 0x5120 (regs [(1, 0x10), (2, 0x11)]) fun t => t.pc == 0x202) = true := by decide

/-- V-C14. -/
theorem test_sneReg :
    (run 0x9120 (regs [(1, 0x10), (2, 0x11)]) fun t => t.pc == 0x204) = true := by decide

/-- V-C13. -/
theorem test_sneReg_same :
    (run 0x9770 State.reset fun t => t.pc == 0x202) = true := by decide

/-- V-C17. -/
theorem test_jpV0_unmasked :
    (run 0xBFFF (regs [(0, 0xFF)]) fun t => t.pc == 0x10FE) = true := by decide

/-- V-C18. -/
theorem test_jpV0_uses_V0 :
    (run 0xB100 (regs [(0, 1), (1, 0xFF)]) fun t => t.pc == 0x101) = true := by decide

/-- V-A2. -/
theorem test_ldByte :
    (run 0x6F00 (regs [(15, 0x80)]) fun t => t.reg 15 == 0 && t.pc == 0x202) = true := by decide

/-- E3. -/
theorem test_addByte :
    (run 0x7002 (regs [(0, 0xFF), (15, 0x55)]) fun t => t.reg 0 == 0x01 && t.reg 15 == 0x55) = true := by decide

/-- V-A4. -/
theorem test_addByte_VF :
    (run 0x7F01 (regs [(15, 0xFF)]) fun t => t.reg 15 == 0) = true := by decide

/-- V-A5. -/
theorem test_ldReg :
    (run 0x8120 (regs [(1, 0x12), (2, 0x34), (15, 9)]) fun t => t.reg 1 == 0x34 && t.reg 15 == 9) = true := by decide

/-- V-A6. -/
theorem test_orReg :
    (run 0x8121 (regs [(1, 0x0F), (2, 0xF0), (15, 9)]) fun t => t.reg 1 == 0xFF && t.reg 15 == 9) = true := by decide

/-- V-A7. -/
theorem test_andReg :
    (run 0x8122 (regs [(1, 0x3C), (2, 0x0F), (15, 9)]) fun t => t.reg 1 == 0x0C && t.reg 15 == 9) = true := by decide

/-- R125, example. -/
theorem test_xorReg :
    (run 0x8123 (regs [(1, 0xFF), (2, 0x0F)]) fun t => t.reg 1 == 0xF0 && t.reg 15 == 0) = true := by decide

/-- V-A12. -/
theorem test_addReg_VF :
    (run 0x8FF4 (regs [(15, 0x80)]) fun t => t.reg 15 == 1) = true := by decide

/-- V-A13. -/
theorem test_addReg_flag_last :
    (run 0x80F4 (regs [(0, 1), (15, 0xFF)]) fun t => t.reg 0 == 0 && t.reg 15 == 1) = true := by decide

/-- E5. -/
theorem test_subReg :
    (run 0x8015 (regs [(0, 1), (1, 2)]) fun t => t.reg 0 == 0xFF && t.reg 15 == 0) = true := by decide

/-- V-A14. -/
theorem test_subReg_equal :
    (run 0x8125 (regs [(1, 5), (2, 5)]) fun t => t.reg 1 == 0 && t.reg 15 == 1) = true := by decide

/-- V-A20. -/
theorem test_shr :
    (run 0x8126 (regs [(1, 2), (2, 0xFF)]) fun t => t.reg 1 == 1 && t.reg 15 == 0) = true := by decide

/-- V-A21. -/
theorem test_shr_VF :
    (run 0x8F06 (regs [(15, 3)]) fun t => t.reg 15 == 1) = true := by decide

/-- V-A23. -/
theorem test_subnReg :
    (run 0x8127 (regs [(1, 5), (2, 3)]) fun t => t.reg 1 == 0xFE && t.reg 15 == 0) = true := by decide

/-- V-A24. -/
theorem test_subnReg_no_borrow :
    (run 0x8127 (regs [(1, 3), (2, 5)]) fun t => t.reg 1 == 2 && t.reg 15 == 1) = true := by decide

/-- V-A26. -/
theorem test_shl :
    (run 0x810E (regs [(1, 0x80)]) fun t => t.reg 1 == 0 && t.reg 15 == 1) = true := by decide

/-- V-A27. -/
theorem test_shl_no_carry :
    (run 0x810E (regs [(1, 0x7F)]) fun t => t.reg 1 == 0xFE && t.reg 15 == 0) = true := by decide

/-- V-A30. -/
theorem test_rnd_zero_mask :
    (run 0xC000 (regs [(0, 5)]) fun t => t.draws == State.reset.draws + 1 && t.pc == 0x202) = true := by decide

/-- V-M1. -/
theorem test_ldI :
    (run 0xA123 State.reset fun t => t.i == 0x123) = true := by decide

/-- V-M2. -/
theorem test_addI_unmasked :
    (run 0xF01E (regsI 0x0FFF [(0, 1), (15, 9)]) fun t => t.i == 0x1000 && t.reg 15 == 9) = true := by decide

/-- V-M3. -/
theorem test_addI_wraps :
    (run 0xF01E (regsI 0xFFFF [(0, 1)]) fun t => t.i == 0) = true := by decide

/-- V-G11. -/
theorem test_ldFont :
    (run 0xF229 (regs [(2, 0x0A)]) fun t => t.i == 0x32) = true := by decide

/-- V-G13. -/
theorem test_ldFont_unmasked :
    (run 0xF229 (regs [(2, 0xFF)]) fun t => t.i == 0x4FB) = true := by decide

/-- V-M9. -/
theorem test_ldBcd_masks_I :
    (run 0xF033 (regsI 0x1300 [(0, 0x2A)]) fun t => t.mem.readBytes 0x300 3 == [0, 4, 2] && t.i == 0x1300) = true := by decide

/-- V-M10. -/
theorem test_ldBcd_font :
    (run 0xF033 (regsI 0x004E []) fun t => t.runState == .faulted (.memReadonly 0x200 0xF033 0x4E) && t.pc == 0x200) = true := by decide

/-- R153, example. -/
theorem test_dump :
    (run 0xF255 (regsI 0x0400 [(0, 1), (1, 2), (2, 3), (3, 4)]) fun t => t.mem.readBytes 0x400 4 == [1, 2, 3, 0] && t.i == 0x400) = true := by decide

/-- V-M13. -/
theorem test_dump_range :
    (run 0xFF55 (regsI 0x0FF1 []) fun t => t.runState == .faulted (.memRange 0x200 0xFF55 0xFF1 16)) = true := by decide

/-- V-M16. -/
theorem test_load :
    (run 0xF465 (regs [(5, 9)]) fun t => t.v.toList.take 6 == [0xF0, 0x90, 0x90, 0x90, 0xF0, 9] && t.i == 0) = true := by decide

/-- V-M18. -/
theorem test_load_range :
    (run 0xF165 (regsI 0x0FFF []) fun t => t.runState == .faulted (.memRange 0x200 0xF165 0xFFF 2)) = true := by decide

/-- V-G3. -/
theorem test_drw_wraps_columns :
    (run 0xD011 (withMem 0x300 [0xFF] (regsI 0x300 [(0, 60)])) fun t => t.fb.pixel 60 0 && t.fb.pixel 63 0 && t.fb.pixel 3 0 && !t.fb.pixel 4 0 && !t.fb.pixel 0 1 && t.reg 15 == 0) = true := by decide

/-- V-G6. -/
theorem test_drw_collides :
    (run 0xD011 (withMem 0x300 [0xC0] ((regsI 0x300 []).setFb (Framebuffer.blank.flip 0 0))) fun t => !t.fb.pixel 0 0 && t.fb.pixel 1 0 && t.reg 15 == 1) = true := by decide

/-- V-K3. -/
theorem test_skp_masks :
    (run 0xE19E ((regs [(1, 0x13)]).setKey 3 true) fun t => t.pc == 0x204) = true := by decide

/-- V-K2. -/
theorem test_skp_not :
    (run 0xE19E (regs [(1, 5)]) fun t => t.pc == 0x202) = true := by decide

/-- V-K4. -/
theorem test_sknp :
    (run 0xE1A1 (regs [(1, 5)]) fun t => t.pc == 0x204) = true := by decide

/-- V-K8. -/
theorem test_ldVxDt :
    (run 0xF507 (State.reset.setDt 0x3C) fun t => t.reg 5 == 0x3C) = true := by decide

/-- V-K6. -/
theorem test_ldVxKey_least :
    (run 0xF30A ((State.reset.setKey 9 true).setKey 2 true) fun t => t.reg 3 == 2 && t.pc == 0x202) = true := by decide

/-- V-K5. -/
theorem test_ldVxKey_waits :
    (run 0xF30A (regs [(3, 0x33)]) fun t => t.reg 3 == 0x33 && t.pc == 0x200 && t.runState == .running) = true := by decide

/-- V-K9. -/
theorem test_ldDtVx :
    (run 0xF515 (regs [(5, 0x10)]) fun t => t.dt == 0x10 && t.st == 0) = true := by decide

/-- V-K10. -/
theorem test_ldStVx :
    (run 0xF618 (regs [(6, 2)]) fun t => t.st == 2 && t.sound && t.dt == 0) = true := by decide

/-! ## Fetch, faults and the host's transactions -/

/-- One step of `s` leads to a state with `p`. -/
def one (s : State) (p : State → Bool) : Bool :=
  match step s with
  | .next t => p t
  | _ => false

/-- E8: 0x5001 is a decode fault, pc unchanged. -/
theorem test_illegal_word :
    run 0x5001 State.reset (fun t => t.runState == .faulted (.decodeFault 0x200 0x5001) && t.pc == 0x200) = true := by decide

/-- V-D9: pc = 0xFFF cannot fetch. -/
theorem test_fetch_range : one (State.reset.setPc 0xFFF) (fun t => t.runState == .faulted (.fetchRange 0xFFF)) = true := by
  decide

/-- V-D11, V-D13: a fetch at 0xFFE, and at an odd address. -/
theorem test_fetch_edges :
    (run 0x6001 (State.reset.setPc 0xFFE) (fun t => t.reg 0 == 1 && t.pc == 0x1000) &&
      run 0x6107 (State.reset.setPc 0x201) (fun t => t.reg 1 == 7 && t.pc == 0x203)) = true := by decide

/-- V-K12: SOUND goes off when ST counts down to 0. -/
theorem test_tick_sound :
    ((State.reset.setSt 1).sound && one ((State.reset.setSt 1).setSchedule [.tick]) (fun t => t.st == 0 && !t.sound)) = true := by
  decide

/-- V-K14: TICK on a Faulted core. -/
theorem test_tick_faulted :
    one (((State.reset.setDt 5).raise (.fetchRange 0xFFF)).setSchedule [.tick]) (fun t => t.dt == 4 && t.st == 0) = true := by
  decide

/-- V-H1, on two bytes: LOAD copies the image to 0x200. -/
theorem test_hostLoad :
    one (State.reset.setSchedule [.load [0x12, 0x00]]) (fun t => t.mem.readBytes 0x200 3 == [0x12, 0x00, 0x00]) = true := by
  decide

/-- V-H4: memory after RESET, from a state with a written byte. -/
theorem test_reset_memory :
    one ((withMem 0x300 [5] State.reset).setSchedule [.reset]) (fun t =>
      t.mem.readBytes 0 5 == [0xF0, 0x90, 0x90, 0x90, 0xF0] && t.mem.read 0x4F == 0x80 && t.mem.read 0x50 == 0 &&
        t.mem.read 0x300 == 0) = true := by decide

/-! ## Witnesses: a concrete state and operands that meet the hypotheses of each statement -/

/-- A Faulted core with the host's next transactions. -/
def faulted (ts : List Transaction) : State := (State.reset.raise (.fetchRange 0x200)).setSchedule ts

theorem witness_ResetSetsEveryElement : (faulted [.reset, .tick]).schedule = [.reset, .tick] := rfl

theorem witness_StepKeepsInv : State.reset.Inv ∧ ∃ t, step State.reset = .next t :=
  ⟨⟨by decide, by decide, by decide, Memory.wf_nil, fun _ _ => rfl, by simp [State.reset]⟩, _, rfl⟩

theorem witness_EveryReachedStateSatisfiesInv :
    ∃ t, Sys2Proof.core.run 2 { State.reset with schedule := [.tick, .key 3 true] } = .next t := ⟨_, rfl⟩

theorem witness_DecodeOfEncode : Instr.wellFormed (.drw 15 15 15) = true ∧ Instr.wellFormed (.jp 0xFFF) = true := by decide

theorem witness_EncodeOfDecode : decode 0xD12F = some (.drw 1 2 15) := by decide

theorem witness_DecodedInstrIsWellFormed : decode 0xD00F = some (.drw 0 0 15) := by decide

theorem witness_WordsSelectOneRowOrNone :
    (⟨0x8004, 0xF00F⟩ ∈ opcodeMap ∧ OpcodeRow.selects ⟨0x8004, 0xF00F⟩ 0x8FF4 = true) ∧
      decode 0x8FF4 = some (.addReg 15 15) := by decide

theorem witness_OperandsAreTheWordsFields :
    decode 0x2FFF = some (.call 0xFFF) ∧ decode 0x3FFF = some (.seByte 15 0xFF) ∧ decode 0x8FF0 = some (.ldReg 15 15) ∧
      decode 0xD12F = some (.drw 1 2 15) ∧ decode 0xFF65 = some (.load 15) := by decide

/-- LD V0, 0x01 at the last address a fetch may start at. -/
def atTop : State := withMem 0xFFE [0x60, 0x01] (State.reset.setPc 0xFFE)

theorem witness_StepRunsTheDecodedInstruction :
    StepIsNext atTop atTop ∧ StepIsNext (atTop.setSchedule [.step, .tick]) (atTop.setSchedule [.tick]) ∧
      atTop.runState = .running ∧ atTop.pc.toNat ≤ 0xFFE ∧ decode (wordAtPc atTop) = some (.ldByte 0 0x01) :=
  ⟨.inl ⟨rfl, rfl⟩, .inr ⟨_, rfl, rfl⟩, rfl, by decide, by decide⟩

theorem witness_FetchOutsideMemoryFaults :
    StepIsNext (State.reset.setPc 0xFFF) (State.reset.setPc 0xFFF) ∧ (State.reset.setPc 0xFFF).runState = .running ∧
      0xFFE < (State.reset.setPc 0xFFF).pc.toNat := ⟨.inl ⟨rfl, rfl⟩, rfl, by decide⟩

theorem witness_IllegalWordFaults :
    StepIsNext State.reset State.reset ∧ State.reset.runState = .running ∧ State.reset.pc.toNat ≤ 0xFFE ∧
      Illegal (wordAtPc State.reset) := ⟨.inl ⟨rfl, rfl⟩, rfl, by decide, by unfold Illegal; decide⟩

theorem witness_FaultedCoreExecutesNothing :
    (∀ ts, (faulted ts).runState = .faulted (.fetchRange 0x200) ∧ (faulted ts).schedule = ts) ∧
      (List.replicate 3584 (0 : Byte)).length ≤ 3584 ∧ (faulted []).mem.wf :=
  ⟨fun _ => ⟨rfl, rfl⟩, Nat.le_of_eq List.length_replicate, Memory.wf_nil⟩

theorem witness_OnlyResetLeavesFaulted :
    (faulted [.reset]).runState = .faulted (.fetchRange 0x200) ∧
      ∃ t, step (faulted [.reset]) = .next t ∧ t.runState = .running := ⟨rfl, _, rfl, rfl⟩

theorem witness_FaultsArePrecise :
    StepIsNext State.reset State.reset ∧ State.reset.runState = .running ∧
      ∃ t, step State.reset = .next t ∧ t.runState = .faulted (.decodeFault 0x200 0x0000) :=
  ⟨.inl ⟨rfl, rfl⟩, rfl, _, rfl, rfl⟩

/-- One instruction of each kind that faults, in a state where it does. -/
theorem witness_InstructionFaultsAreThoseListed :
    (∃ t, exec .ret State.reset = .next t ∧ t.runState = .faulted (.stackUnderflow 0x200 0)) ∧
      (∃ t, exec (.call 0) { State.reset with sp := 16 } = .next t ∧ t.runState = .faulted (.stackOverflow 0x200 16)) ∧
      (∃ t, exec (.drw 0 0 2) (regsI 0xFFF []) = .next t ∧ t.runState = .faulted (.memRange 0x200 0xD002 0xFFF 2)) ∧
      (∃ t, exec (.ldBcd 0) (regsI 0x04F []) = .next t ∧ t.runState = .faulted (.memReadonly 0x200 0xF033 0x04F)) ∧
      ∃ t, exec (.load 1) (regsI 0xFFF []) = .next t ∧ t.runState = .faulted (.memRange 0x200 0xF165 0xFFF 2) :=
  ⟨⟨_, rfl, rfl⟩, ⟨_, rfl, rfl⟩, ⟨_, rfl, rfl⟩, ⟨_, rfl, rfl⟩, ⟨_, rfl, rfl⟩⟩

theorem witness_TickCountsBothTimersDown : (State.reset.setSchedule [.tick, .step]).schedule = [.tick, .step] := rfl

theorem witness_FbReadAnswersTheFramebuffer :
    (State.reset.setSchedule [.fbRead, .tick]).schedule = [.fbRead, .tick] ∧ (faulted [.fbRead]).schedule = [.fbRead] :=
  ⟨rfl, rfl⟩

theorem witness_KeyWritesOneEntryOfTheLatch : (State.reset.setSchedule [.key 15 true]).schedule = [.key 15 true] := rfl

theorem witness_LoadCopiesTheImage :
    (State.reset.setSchedule [.load (List.replicate 3584 0)]).schedule = [.load (List.replicate 3584 0)] ∧
      (List.replicate 3584 (0 : Byte)).length ≤ 3584 ∧ State.reset.mem.wf := ⟨rfl, Nat.le_of_eq List.length_replicate, Memory.wf_nil⟩

theorem witness_OversizedLoadIsRejected :
    (State.reset.setSchedule [.load (List.replicate 3585 0)]).schedule = [.load (List.replicate 3585 0)] ∧
      3584 < (List.replicate 3585 (0 : Byte)).length :=
  ⟨rfl, Nat.le_of_eq List.length_replicate.symm⟩

/-- Both ends of the stack, for RET and for CALL. -/
theorem witness_RetPopsOrUnderflows_CallPushesOrOverflows :
    State.reset.sp = 0 ∧ State.reset.sp = (0 : Fin 16).val ∧ ({ State.reset with sp := 16 } : State).sp = (15 : Fin 16).val + 1 ∧
      ({ State.reset with sp := 1 } : State).sp = (0 : Fin 16).val + 1 ∧
      ({ State.reset with sp := 15 } : State).sp = (15 : Fin 16).val := by decide

/-- No byte of 0x050 .. 0xFFF is in the font region. -/
theorem not_inFont_of_ge (a : Nat) (h : 0x50 ≤ a) : inFont a = false := by
  rw [Bool.eq_false_iff, ne_eq, inFont_iff]
  simp only [fontBase]
  omega

/-- An access of `len` bytes from the base of `s` that fits and misses the font region. -/
def Storable (s : State) (len : Nat) : Prop :=
  s.mem.wf ∧ s.base + len ≤ 0x1000 ∧ ∀ a, s.base ≤ a → a < s.base + len → inFont a = false

theorem storable_of_base {s : State} {len : Nat} (hw : s.mem.wf) (hb : 0x50 ≤ s.base) (hl : s.base + len ≤ 0x1000) :
    Storable s len := ⟨hw, hl, fun a h _ => not_inFont_of_ge a (le_trans hb h)⟩

/-- The lowest and the highest base LD B can store at. -/
theorem witness_BcdStoresThreeDigits : Storable (regsI 0x0050 []) 3 ∧ Storable (regsI 0x0FFD []) 3 :=
  ⟨storable_of_base Memory.wf_nil (by decide) (by decide), storable_of_base Memory.wf_nil (by decide) (by decide)⟩

/-- A full dump at the top of memory, and one register just past the font. -/
theorem witness_DumpStoresTheRegisters :
    Storable (regsI 0x0FF0 []) ((15 : Idx).val + 1) ∧ Storable (regsI 0x0050 []) ((0 : Idx).val + 1) :=
  ⟨storable_of_base Memory.wf_nil (by decide) (by decide), storable_of_base Memory.wf_nil (by decide) (by decide)⟩

theorem witness_LoadReadsTheRegisters :
    (regsI 0xFF0 []).base + ((15 : Idx).val + 1) ≤ 0x1000 ∧ (regsI 0xFFF []).base + ((0 : Idx).val + 1) ≤ 0x1000 := by decide

theorem witness_RangesPastTheTopFault :
    0x1000 < (regsI 0xFFF []).base + 2 ∧ 0x1000 < (regsI 0x1FFE []).base + 3 ∧
      0x1000 < (regsI 0xFF1 []).base + ((15 : Idx).val + 1) := by decide

/-- The access of LD B from 0x04E and of LD [I] from 0x000: the lowest font address is the base. -/
theorem witness_FontWritesFault :
    ((regsI 0x04E []).base ≤ 0x04E ∧ inFont 0x04E = true ∧ 0x04E < (regsI 0x04E []).base + 3 ∧
        (regsI 0x04E []).base + 3 ≤ 0x1000) ∧
      ((regsI 0x000 []).base ≤ 0x000 ∧ inFont 0x000 = true ∧ 0x000 < (regsI 0x000 []).base + ((15 : Idx).val + 1) ∧
        (regsI 0x000 []).base + ((15 : Idx).val + 1) ≤ 0x1000) ∧
      (∀ b, (regsI 0x04E []).base ≤ b → b < 0x04E → inFont b = false) ∧
      ∀ b, (regsI 0x000 []).base ≤ b → b < 0x000 → inFont b = false := by
  have h1 : (regsI 0x04E []).base = 0x04E := by decide
  have h2 : (regsI 0x000 []).base = 0x000 := by decide
  rw [h1, h2]
  exact ⟨by decide, by decide, fun _ h h' => absurd h' (by omega), fun _ h h' => absurd h' (by omega)⟩

theorem witness_DrwXorsTheSprite :
    (regsI 0xFF1 []).base + 15 ≤ 0x1000 ∧ (15 : Nat) < 16 ∧ (regsI 0xFFF []).base + 0 ≤ 0x1000 := by decide

/-- Glyph 0 drawn twice on a clear framebuffer (E6): every hypothesis, the row that is not zero among them. -/
theorem witness_DrawingTwiceErases :
    State.reset.base + 5 ≤ 0x1000 ∧ (∃ t u, exec (.drw 0 1 5) State.reset = .next t ∧ exec (.drw 0 1 5) t = .next u) ∧
      (∀ a b, State.reset.fb.pixel a b = false) ∧ ∃ r < 5, State.reset.mem.read (State.reset.base + r) ≠ 0 :=
  ⟨by decide, ⟨_, _, rfl, rfl⟩, fun a b => by simp [State.reset], 0, by decide, by decide⟩

theorem witness_KeySkipsTestTheLowNibble : (3 : Idx).val = ((regs [(1, 0x13)]).reg 1).toNat % 16 := by decide

theorem witness_WaitForKeyStoresTheLeastKey :
    ((State.reset.setKey 9 true).setKey 2 true).pressed 2 = true ∧
      ∀ j, j < 2 → ((State.reset.setKey 9 true).setKey 2 true).pressed j = false := by decide

/-- LD V3, K at pc, no key pressed. -/
def waiting : State := State.reset.withFetchWord 16 0xF30A

theorem witness_WaitingChangesNothing :
    waiting.runState = .running ∧ waiting.pc.toNat ≤ 0xFFE ∧ decode (wordAtPc waiting) = some (.ldVxKey 3) ∧
      (∀ k, waiting.pressed k = false) ∧ waiting.schedule = [] := by decide

/-- For each part of the state, an instruction that does change it. -/
theorem witness_OnlyTheNamedInstructionsWrite :
    (∃ t, exec (.ldI 0x300) State.reset = .next t ∧ t.i ≠ State.reset.i) ∧
      (∃ t, exec (.call 0x300) State.reset = .next t ∧ t.stack ≠ State.reset.stack ∧ t.sp ≠ State.reset.sp) ∧
      (∃ t, exec (.ldDtVx 1) (regs [(1, 5)]) = .next t ∧ t.dt ≠ State.reset.dt) ∧
      (∃ t, exec (.ldStVx 1) (regs [(1, 5)]) = .next t ∧ t.st ≠ State.reset.st) ∧
      (∃ t, exec (.drw 0 0 1) State.reset = .next t ∧ t.fb ≠ State.reset.fb) ∧
      (∃ t, exec (.rnd 0 0) State.reset = .next t ∧ t.draws ≠ State.reset.draws) ∧
      (∃ t, exec (.ldBcd 0) (regsI 0x300 [(0, 7)]) = .next t ∧ t.mem ≠ State.reset.mem) ∧
      (∃ t, exec (.load 1) State.reset = .next t ∧ t.reg 0 ≠ State.reset.reg 0 ∧ t.reg 1 ≠ State.reset.reg 1) ∧
      ∃ t, exec .ret State.reset = .next t ∧ t.runState ≠ State.reset.runState :=
  ⟨⟨_, rfl, by decide⟩, ⟨_, rfl, by decide, by decide⟩, ⟨_, rfl, by decide⟩, ⟨_, rfl, by decide⟩, ⟨_, rfl, by decide⟩,
    ⟨_, rfl, by decide⟩, ⟨_, rfl, by decide⟩, ⟨_, rfl, by decide, by decide⟩, ⟨_, rfl, by decide⟩⟩

theorem witness_OnlyTheNamedInstructionsWriteVF :
    ∃ t, exec (.addReg 0 0) (regs [(0, 0x80)]) = .next t ∧ t.reg 15 ≠ (regs [(0, 0x80)]).reg 15 := ⟨_, rfl, by decide⟩

theorem witness_PcMovesAsTheInstructionSays :
    ∃ t, exec (.seReg 7 7) State.reset = .next t ∧ State.reset.runState = .running ∧ t.runState = .running :=
  ⟨_, rfl, rfl, rfl⟩

theorem witness_RetResumesAfterCall :
    State.reset.sp < 16 ∧ ∃ t v, exec (.call 0x300) State.reset = .next t ∧ exec .ret t = .next v :=
  ⟨by decide, _, _, rfl, rfl⟩

/-- LD [I], V1 at 0x200 with I = 0x202: it stores LD V5, 0x07 (65 07) where the next step fetches. -/
theorem witness_StoredBytesAreFetched :
    (regsI 0x202 [(0, 0x65), (1, 0x07)]).mem.wf ∧ 1 ≤ (1 : Idx).val ∧
      (regsI 0x202 [(0, 0x65), (1, 0x07)]).runState = .running ∧ (regsI 0x202 [(0, 0x65), (1, 0x07)]).schedule = [] ∧
      (∀ a, (regsI 0x202 [(0, 0x65), (1, 0x07)]).base ≤ a → inFont a = false) ∧
      ((regsI 0x202 [(0, 0x65), (1, 0x07)]).pc + 2).toNat = (regsI 0x202 [(0, 0x65), (1, 0x07)]).base ∧
      (∃ t, exec (.dump 1) (regsI 0x202 [(0, 0x65), (1, 0x07)]) = .next t) ∧
      decode (BitVec.ofNat 16 (0x65 * 256 + 0x07)) = some (.ldByte 5 0x07) :=
  ⟨Memory.wf_nil, by decide, rfl, rfl, fun a h => not_inFont_of_ge a (le_trans (by decide) h), by decide, ⟨_, rfl⟩, by decide⟩

/-- JP 0x200 at 0x200 (V-C2). -/
theorem witness_SelfJumpStaysForEver :
    (State.reset.withFetchWord 16 0x1200).runState = .running ∧ (State.reset.withFetchWord 16 0x1200).schedule = [] ∧
      (State.reset.withFetchWord 16 0x1200).endOfRun = true := by decide

end Sys2Proof.Tests
end

section
/-! PROOFS. The conditional skips of 40_control_flow.md (R103 to R106): each is `State.skipIf` of its condition, so what
`skipIf` changes and keeps is said once. -/

open Sys2Proof Sys2Proof.Machine

namespace Sys2Proof.Claims

/-! ### Writing pc leaves every other part of the state -/

theorem keepsAllButPc_setPc (s : State) (w : Word) : KeepsAllButPc s (s.setPc w) := by
  have hregs : KeepsRegs s (s.setPc w) := s.reg_setPc w
  have hstack : KeepsStack s (s.setPc w) := ⟨s.setPc_stack w, s.setPc_sp w⟩
  have htimers : KeepsTimers s (s.setPc w) := ⟨s.setPc_dt w, s.setPc_st w⟩
  have hmem : KeepsMemory s (s.setPc w) := fun a => congrArg (Memory.read · a) (s.setPc_mem w)
  have hrest : KeepsRest s (s.setPc w) :=
    ⟨s.setPc_keys w, s.setPc_runState w, s.setPc_draws w, s.setPc_schedule w⟩
  exact ⟨hregs, s.setPc_i w, hstack, htimers, s.setPc_fb w, hmem, hrest⟩

theorem keepsAllButPc_skipIf (s : State) (c : Bool) : KeepsAllButPc s (s.skipIf c) := keepsAllButPc_setPc s _

/-! ### An instruction that is a `skipIf` -/

section
variable {i : Instr} {s : State} {c : Bool} {p : Prop} [Decidable p]

/-- The skip is taken when `p` holds. -/
theorem completes_of_skipIf_iff (hexec : exec i s = .next (s.skipIf c)) (hc : c = true ↔ p) :
    Completes i s fun t => t.pc = (if p then s.pc + 4 else s.pc + 2) ∧ KeepsAllButPc s t :=
  ⟨s.skipIf c, hexec, by simp only [State.skipIf_pc, hc], keepsAllButPc_skipIf s c⟩

/-- The skip is taken when `p` fails (R104: "dual of above"). -/
theorem completes_of_skipIf_iff_not (hexec : exec i s = .next (s.skipIf c)) (hc : c = true ↔ ¬p) :
    Completes i s fun t => t.pc = (if p then s.pc + 2 else s.pc + 4) ∧ KeepsAllButPc s t := by
  simpa only [ite_not] using completes_of_skipIf_iff hexec hc

end

/-! ### The four skips -/

theorem exec_seByte (x : Idx) (kk : Byte) (s : State) :
    exec (.seByte x kk) s = .next (s.skipIf (s.reg x == kk)) := rfl

theorem exec_sneByte (x : Idx) (kk : Byte) (s : State) :
    exec (.sneByte x kk) s = .next (s.skipIf (s.reg x != kk)) := rfl

theorem exec_seReg (x y : Idx) (s : State) :
    exec (.seReg x y) s = .next (s.skipIf (s.reg x == s.reg y)) := rfl

theorem exec_sneReg (x y : Idx) (s : State) :
    exec (.sneReg x y) s = .next (s.skipIf (s.reg x != s.reg y)) := rfl

/-- Settles O30: SE skips on equality and SNE on inequality, and a skip writes pc alone. -/
theorem skipsAdvanceByFourOrTwo : Obligations.SkipsAdvanceByFourOrTwo := by
  intro x y kk s
  refine ⟨?seByte, ?sneByte, ?seReg, ?sneReg⟩
  case seByte => exact completes_of_skipIf_iff (exec_seByte x kk s) beq_iff_eq
  case sneByte => exact completes_of_skipIf_iff_not (exec_sneByte x kk s) bne_iff_ne
  case seReg => exact completes_of_skipIf_iff (exec_seReg x y s) beq_iff_eq
  case sneReg => exact completes_of_skipIf_iff_not (exec_sneReg x y s) bne_iff_ne

end Sys2Proof.Claims
end

section
/-! PROOFS. The loads and additions of 41_alu.md (R120, R121, R126): each writes Vx, or Vx and then VF (R133), and takes
the default advance. What those two shapes of result change and keep is said once, for any byte written. -/

open Sys2Proof Sys2Proof.Machine

namespace Sys2Proof.Claims

/-! ### Writing general registers and advancing leaves every other part of the state -/

theorem keepsAllButRegsPc_setRegs_advance (s : State) (v : Vector Byte 16) :
    KeepsAllButRegsPc s (s.setRegs v).advance := by
  obtain ⟨-, hadvance⟩ := keepsAllButPc_setPc (s.setRegs v) ((s.setRegs v).pc + 2)
  exact hadvance

theorem setReg_eq_setRegs (s : State) (x : Idx) (b : Byte) : s.setReg x b = s.setRegs (s.v.set x.val b) := rfl

theorem setRegThenFlag_eq_setRegs (s : State) (x : Idx) (b c : Byte) :
    s.setRegThenFlag x b c = s.setRegs ((s.v.set x.val b).set 15 c) := rfl

/-! ### An instruction that writes Vx, or Vx and then VF, and advances -/

section
variable {i : Instr} {s : State} {x : Idx} {b c : Byte}

theorem completes_of_setReg_advance (hexec : exec i s = .next (s.setReg x b).advance) :
    Completes i s fun t =>
      t.reg x = b ∧ KeepsRegsBut x s t ∧ t.pc = s.pc + 2 ∧ KeepsAllButRegsPc s t := by
  refine ⟨_, hexec, ?vx, ?others, ?pc, ?rest⟩
  case vx => rw [State.reg_advance, State.reg_setReg_same]
  case others =>
    intro y hyx
    rw [State.reg_advance, State.reg_setReg_other s x y b hyx]
  case pc => rw [State.advance_pc, State.setReg_pc]
  case rest =>
    rw [setReg_eq_setRegs]
    exact keepsAllButRegsPc_setRegs_advance s _

/-- The flag is written last, so VF holds it even when x = F. -/
theorem completes_of_setRegThenFlag_advance (hexec : exec i s = .next (s.setRegThenFlag x b c).advance) :
    Completes i s fun t =>
      t.reg 15 = c ∧ (x ≠ 15 → t.reg x = b) ∧ KeepsRegsButFlag x s t ∧ t.pc = s.pc + 2 ∧ KeepsAllButRegsPc s t := by
  refine ⟨_, hexec, ?vf, ?vx, ?others, ?pc, ?rest⟩
  case vf => rw [State.reg_advance, State.reg_setRegThenFlag, if_pos rfl]
  case vx =>
    intro hx
    rw [State.reg_advance, State.reg_setRegThenFlag, if_neg hx, if_pos rfl]
  case others =>
    intro y hyx hy15
    rw [State.reg_advance, State.reg_setRegThenFlag, if_neg hy15, if_neg hyx]
  case pc => rw [State.advance_pc, State.setRegThenFlag_pc]
  case rest =>
    rw [setRegThenFlag_eq_setRegs]
    exact keepsAllButRegsPc_setRegs_advance s _

end

/-! ### The flag values -/

theorem flagByte_decide (p : Prop) [Decidable p] : flagByte (decide p) = flagOf p := by
  simp only [flagByte, flagOf, decide_eq_true_eq]

theorem carryFlag_eq_flagOf (a b : Byte) : carryFlag a b = flagOf (a.toNat + b.toNat > 255) :=
  flagByte_decide (255 < a.toNat + b.toNat)

/-! ### LD Vx,kk; ADD Vx,kk; ADD Vx,Vy -/

theorem exec_ldByte (x : Idx) (kk : Byte) (s : State) :
    exec (.ldByte x kk) s = .next (s.setReg x kk).advance := rfl

theorem exec_addByte (x : Idx) (kk : Byte) (s : State) :
    exec (.addByte x kk) s = .next (s.setReg x (s.reg x + kk)).advance := rfl

theorem exec_addReg (x y : Idx) (s : State) :
    exec (.addReg x y) s =
      .next (s.setRegThenFlag x (s.reg x + s.reg y) (carryFlag (s.reg x) (s.reg y))).advance := rfl

/-- Settles O32: both write Vx alone, and the sum of two bytes is their sum modulo 256. -/
theorem immediateLoadAndAdd : Obligations.ImmediateLoadAndAdd := by
  intro x kk s
  refine ⟨?ld, ?add⟩
  case ld => exact completes_of_setReg_advance (exec_ldByte x kk s)
  case add =>
    obtain ⟨t, hexec, hvx, hframe⟩ := completes_of_setReg_advance (exec_addByte x kk s)
    exact ⟨t, hexec, by rw [hvx, BitVec.toNat_add], hframe⟩

/-- Settles O34: the sum goes to Vx, then the carry of the old operands to VF. -/
theorem addWritesSumThenCarry : Obligations.AddWritesSumThenCarry := by
  intro x y s
  obtain ⟨t, hexec, hvf, hvx, hframe⟩ := completes_of_setRegThenFlag_advance (exec_addReg x y s)
  have hcarry : t.reg 15 = flagOf ((s.reg x).toNat + (s.reg y).toNat > 255) := by
    rw [hvf, carryFlag_eq_flagOf]
  have hsum (hx : x ≠ 15) : (t.reg x).toNat = ((s.reg x).toNat + (s.reg y).toNat) % 256 := by
    rw [hvx hx, BitVec.toNat_add]
  exact ⟨t, hexec, hcarry, hsum, hframe⟩

end Sys2Proof.Claims
end

section
/-! PROOFS. LD I,nnn of 42_index_memory.md (R150): it writes I and takes the default advance. What that shape of result
changes and keeps is said once, for any word written. -/

open Sys2Proof Sys2Proof.Machine

namespace Sys2Proof.Claims

/-! ### An instruction that writes I and advances -/

theorem keepsAllButIndexPc_setI_advance (s : State) (w : Word) : KeepsAllButIndexPc s (s.setI w).advance := by
  obtain ⟨hregs, -, hrest⟩ := keepsAllButPc_setPc (s.setI w) ((s.setI w).pc + 2)
  exact ⟨hregs, hrest⟩

theorem completes_of_setI_advance {i : Instr} {s : State} {w : Word} (hexec : exec i s = .next (s.setI w).advance) :
    Completes i s fun t => t.i = w ∧ t.pc = s.pc + 2 ∧ KeepsAllButIndexPc s t := by
  refine ⟨_, hexec, ?index, ?pc, ?rest⟩
  case index => rw [State.advance_i, State.setI_i]
  case pc => rw [State.advance_pc, State.setI_pc]
  case rest => exact keepsAllButIndexPc_setI_advance s w

/-! ### LD I,nnn -/

/-- A 12-bit address is zero-extended. -/
@[simp] theorem toNat_addrWord (nnn : Addr) : (addrWord nnn).toNat = nnn.toNat :=
  BitVec.toNat_setWidth_of_le (by decide)

theorem exec_ldI (nnn : Addr) (s : State) :
    exec (.ldI nnn) s = .next (s.setI (addrWord nnn)).advance := rfl

/-- Settles O38: I takes the zero-extended address, and only I and pc are written. -/
theorem ldISetsIndex : Obligations.LdISetsIndex := by
  intro nnn s
  obtain ⟨t, hexec, hindex, hframe⟩ := completes_of_setI_advance (exec_ldI nnn s)
  exact ⟨t, hexec, by rw [hindex, toNat_addrWord], hframe⟩

end Sys2Proof.Claims
end

section
/-! PROOFS. CLS of 43_display.md (R170): it writes the framebuffer and takes the default advance. What that shape of result
changes and keeps is said once, for any framebuffer written. -/

open Sys2Proof Sys2Proof.Machine

namespace Sys2Proof.Claims

/-! ### An instruction that writes the framebuffer and advances -/

theorem completes_of_setFb_advance {i : Instr} {s : State} {fb : Framebuffer}
    (hexec : exec i s = .next (s.setFb fb).advance) :
    Completes i s fun t =>
      t.fb = fb ∧ t.pc = s.pc + 2 ∧ KeepsRegs s t ∧ t.i = s.i ∧ KeepsStack s t ∧ KeepsTimers s t ∧
        KeepsMemory s t ∧ KeepsRest s t := by
  obtain ⟨hregs, hindex, hstack, htimers, hfb, hmem, hrest⟩ :=
    keepsAllButPc_setPc (s.setFb fb) ((s.setFb fb).pc + 2)
  exact ⟨_, hexec, hfb, (s.setFb fb).advance_pc, hregs, hindex, hstack, htimers, hmem, hrest⟩

/-! ### CLS -/

theorem exec_cls (s : State) : exec .cls s = .next (s.setFb Framebuffer.blank).advance := rfl

/-- Settles O45: CLS writes the blank framebuffer, and only the framebuffer and pc are written. -/
theorem clsTurnsEveryPixelOff : Obligations.ClsTurnsEveryPixelOff := by
  intro s
  obtain ⟨t, hexec, hfb, hframe⟩ := completes_of_setFb_advance (exec_cls s)
  have hoff (x : Fin 64) (y : Fin 32) : t.fb.pixel x y = false := by
    rw [hfb, Framebuffer.pixel_blank]
  exact ⟨t, hexec, hoff, hframe⟩

end Sys2Proof.Claims
end

section
/-! PROOFS. The delay timer moves of 44_keypad_timer.md (R195, R196): LD Vx,DT writes a general register and LD DT,Vx the
delay timer, and both take the default advance. What writing the delay timer changes and keeps is said once, for any byte
written. -/

open Sys2Proof Sys2Proof.Machine

namespace Sys2Proof.Claims

/-! ### An instruction that writes the delay timer and advances -/

theorem completes_of_setDt_advance {i : Instr} {s : State} {b : Byte} (hexec : exec i s = .next (s.setDt b).advance) :
    Completes i s fun t =>
      t.dt = b ∧ t.st = s.st ∧ t.pc = s.pc + 2 ∧ KeepsRegs s t ∧ t.i = s.i ∧ KeepsStack s t ∧ t.fb = s.fb ∧
        KeepsMemory s t ∧ KeepsRest s t := by
  obtain ⟨hregs, hindex, hstack, ⟨hdt, hst⟩, hfb, hmem, hrest⟩ :=
    keepsAllButPc_setPc (s.setDt b) ((s.setDt b).pc + 2)
  exact ⟨_, hexec, hdt, hst, (s.setDt b).advance_pc, hregs, hindex, hstack, hfb, hmem, hrest⟩

/-! ### LD Vx,DT; LD DT,Vx -/

theorem exec_ldVxDt (x : Idx) (s : State) : exec (.ldVxDt x) s = .next (s.setReg x s.dt).advance := rfl

theorem exec_ldDtVx (x : Idx) (s : State) : exec (.ldDtVx x) s = .next (s.setDt (s.reg x)).advance := rfl

/-- Settles O51: one move writes Vx alone and the other DT alone, each with the other's value before the move. -/
theorem delayTimerMoves : Obligations.DelayTimerMoves := by
  intro x s
  refine ⟨?read, ?write⟩
  case read => exact completes_of_setReg_advance (exec_ldVxDt x s)
  case write => exact completes_of_setDt_advance (exec_ldDtVx x s)

end Sys2Proof.Claims
end

section
/-! PROOFS. The decoder and the encoder are inverse to each other (30_encoding.md R71 to R75): the word of a well-formed
instruction decodes to it, and a word that decodes is built, in the format of its family, from its own fields. -/

open Sys2Proof Sys2Proof.Machine

namespace Sys2Proof.Claims

/-! ### Decoding an encoded instruction -/

/-- Settles O6, format by format: the family, the sub-op and the operands are read back from where each format puts
them. -/
theorem decodeOfEncode : Obligations.DecodeOfEncode := by
  intro i hwf
  cases i with
  | cls | ret => rfl
  | jp nnn | call nnn | ldI nnn | jpV0 nnn =>
    simp [encode, decode, fieldFamily_encNNN, fieldNNN_encNNN]
  | seByte x kk | sneByte x kk | ldByte x kk | addByte x kk | rnd x kk =>
    simp [encode, decode, fieldFamily_encXKK, fieldX_encXKK, fieldKK_encXKK]
  | seReg x y | sneReg x y =>
    simp [encode, decode, fieldFamily_encXYN, fieldN_encXYN, fieldX_encXYN, fieldY_encXYN]
  | ldReg x y | orReg x y | andReg x y | xorReg x y | addReg x y | subReg x y | shr x y | subnReg x y | shl x y =>
    simp [encode, decode, decodeFamily8, fieldFamily_encXYN, fieldN_encXYN, fieldX_encXYN, fieldY_encXYN]
  | drw x y n =>
    have hn : n < 16 := of_decide_eq_true hwf
    simp [encode, decode, fieldFamily_encXYN, fieldN_encXYN, fieldX_encXYN, fieldY_encXYN, Nat.mod_eq_of_lt hn]
  | skp x | sknp x =>
    simp [encode, decode, decodeFamilyE, fieldFamily_encXSS, lowByte_encXSS, fieldX_encXSS]
  | ldVxDt x | ldVxKey x | ldDtVx x | ldStVx x | addI x | ldFont x | ldBcd x | dump x | load x =>
    simp [encode, decode, decodeFamilyF, fieldFamily_encXSS, lowByte_encXSS, fieldX_encXSS]

/-! ### Every word is built from its own fields, in each format -/

section
variable {w : Word} {op : Nat}

theorem lt_of_fieldFamily_eq (hf : fieldFamily w = op) : op < 16 := by
  have := w.isLt
  rw [fieldFamily_eq] at hf
  omega

theorem encNNN_fields (hf : fieldFamily w = op) : encNNN op (fieldNNN w) = w := by
  apply BitVec.eq_of_toNat_eq
  rw [toNat_encNNN _ _ (lt_of_fieldFamily_eq hf), ← hf, fieldFamily_eq, toNat_fieldNNN]
  omega

theorem encXKK_fields (hf : fieldFamily w = op) : encXKK op (fieldX w) (fieldKK w) = w := by
  apply BitVec.eq_of_toNat_eq
  rw [toNat_encXKK _ _ _ (lt_of_fieldFamily_eq hf), ← hf, fieldFamily_eq, val_fieldX, toNat_fieldKK]
  omega

theorem encXYN_fields {n : Nat} (hf : fieldFamily w = op) (hn : fieldN w = n) :
    encXYN op (fieldX w) (fieldY w) n = w := by
  apply BitVec.eq_of_toNat_eq
  rw [toNat_encXYN _ _ _ _ (lt_of_fieldFamily_eq hf), ← hf, ← hn, fieldFamily_eq, val_fieldX, val_fieldY, fieldN_eq]
  omega

theorem encXSS_fields {sub : Nat} (hf : fieldFamily w = op) (hs : bits w 0 8 = sub) :
    encXSS op (fieldX w) sub = w := by
  have hsub : sub < 256 := by rw [← hs, lowByte_eq]; omega
  apply BitVec.eq_of_toNat_eq
  rw [toNat_encXSS _ _ _ (lt_of_fieldFamily_eq hf) hsub, ← hf, ← hs, fieldFamily_eq, val_fieldX, lowByte_eq]
  omega

end

/-! ### What the decoder gives -/

/-- `i` is a well-formed instruction and `w` is its word. -/
def IsWordOf (w : Word) (i : Instr) : Prop := encode i = w ∧ i.wellFormed = true

section
variable {w : Word} {i : Instr}

theorem isWordOf_of_decodeFamily0 (h : decodeFamily0 w = some i) : IsWordOf w i := by
  unfold decodeFamily0 at h
  split at h
  · next hw => cases h; exact ⟨BitVec.eq_of_toNat_eq hw.symm, rfl⟩
  · next hw => cases h; exact ⟨BitVec.eq_of_toNat_eq hw.symm, rfl⟩
  · cases h

theorem isWordOf_of_decodeFamily8 (hf : fieldFamily w = 0x8) (h : decodeFamily8 w = some i) : IsWordOf w i := by
  unfold decodeFamily8 at h
  split at h <;> cases h
  all_goals next hn => exact ⟨encXYN_fields hf hn, rfl⟩

theorem isWordOf_of_decodeFamilyE (hf : fieldFamily w = 0xE) (h : decodeFamilyE w = some i) : IsWordOf w i := by
  unfold decodeFamilyE at h
  split at h <;> cases h
  all_goals next hb => exact ⟨encXSS_fields hf hb, rfl⟩

theorem isWordOf_of_decodeFamilyF (hf : fieldFamily w = 0xF) (h : decodeFamilyF w = some i) : IsWordOf w i := by
  unfold decodeFamilyF at h
  split at h <;> cases h
  all_goals next hb => exact ⟨encXSS_fields hf hb, rfl⟩

/-- A word that decodes is the word of its instruction, which is well-formed. -/
theorem isWordOf_of_decode (h : decode w = some i) : IsWordOf w i := by
  unfold decode at h
  split at h
  · exact isWordOf_of_decodeFamily0 h
  · next hf => cases h; exact ⟨encNNN_fields hf, rfl⟩
  · next hf => cases h; exact ⟨encNNN_fields hf, rfl⟩
  · next hf => cases h; exact ⟨encXKK_fields hf, rfl⟩
  · next hf => cases h; exact ⟨encXKK_fields hf, rfl⟩
  · next hf =>
    obtain ⟨hn, hi⟩ := Option.ite_none_right_eq_some.mp h
    cases hi; exact ⟨encXYN_fields hf hn, rfl⟩
  · next hf => cases h; exact ⟨encXKK_fields hf, rfl⟩
  · next hf => cases h; exact ⟨encXKK_fields hf, rfl⟩
  · next hf => exact isWordOf_of_decodeFamily8 hf h
  · next hf =>
    obtain ⟨hn, hi⟩ := Option.ite_none_right_eq_some.mp h
    cases hi; exact ⟨encXYN_fields hf hn, rfl⟩
  · next hf => cases h; exact ⟨encNNN_fields hf, rfl⟩
  · next hf => cases h; exact ⟨encNNN_fields hf, rfl⟩
  · next hf => cases h; exact ⟨encXKK_fields hf, rfl⟩
  · next hf =>
    have hn : fieldN w < 16 := by rw [fieldN_eq]; omega
    cases h; exact ⟨encXYN_fields hf rfl, decide_eq_true hn⟩
  · next hf => exact isWordOf_of_decodeFamilyE hf h
  · next hf => exact isWordOf_of_decodeFamilyF hf h
  · cases h

end

/-- Settles O7: the encoder puts together the fields the decoder took apart. -/
theorem encodeOfDecode : Obligations.EncodeOfDecode := fun _ _ h => (isWordOf_of_decode h).1

/-- Settles O8: only the row count of DRW could be too large, and it is a 4-bit field. -/
theorem decodedInstrIsWellFormed : Obligations.DecodedInstrIsWellFormed := fun _ _ h => (isWordOf_of_decode h).2

end Sys2Proof.Claims
end

section
/-! PROOFS. The opcode map and the illegal space (30_encoding.md R75 to R77), and the fields of a decoded word (R72). -/

open Sys2Proof Sys2Proof.Machine

namespace Sys2Proof.Claims

/-! ### The words without an instruction, family by family -/

theorem decodeFamily0_eq_none (w : Word) : decodeFamily0 w = none ↔ w ≠ 0x00E0 ∧ w ≠ 0x00EE := by
  unfold decodeFamily0
  simp only [ne_eq, ← BitVec.toNat_inj]
  split <;> simp_all

theorem decodeFamily8_eq_none (w : Word) :
    decodeFamily8 w = none ↔ w.toNat % 16 ∈ [0x8, 0x9, 0xA, 0xB, 0xC, 0xD, 0xF] := by
  unfold decodeFamily8
  rw [fieldN_eq]
  split <;> simp_all
  omega

theorem decodeFamilyE_eq_none (w : Word) : decodeFamilyE w = none ↔ w.toNat % 256 ∉ [0x9E, 0xA1] := by
  unfold decodeFamilyE
  rw [lowByte_eq]
  split <;> simp_all

theorem decodeFamilyF_eq_none (w : Word) :
    decodeFamilyF w = none ↔ w.toNat % 256 ∉ [0x07, 0x0A, 0x15, 0x18, 0x1E, 0x29, 0x33, 0x55, 0x65] := by
  unfold decodeFamilyF
  rw [lowByte_eq]
  split <;> simp_all

/-- Settles O10: six families have illegal words, and each dispatches on the field the spec names. -/
theorem illegalWordsAreThoseListed : Obligations.IllegalWordsAreThoseListed := by
  intro w
  have hlt : w.toNat / 4096 < 16 := by omega
  unfold decode Illegal
  rw [fieldFamily_eq, fieldN_eq]
  split <;> rename_i hf
  case h_1 => simp [hf, decodeFamily0_eq_none]
  case h_6 | h_10 => simp [hf]
  case h_9 => simp [hf, decodeFamily8_eq_none]
  case h_15 => simp [hf, decodeFamilyE_eq_none]
  case h_16 => simp [hf, decodeFamilyF_eq_none]
  case h_17 => simp only [imp_false] at *; omega
  all_goals simp [hf]

/-! ### The rows of the opcode map -/

theorem instr_selects_own_row (i : Instr) : i.row.selects (encode i) = true ∧ i.row ∈ opcodeMap :=
  match i with
  | .cls => Laws.RowOfEncoding.cls
  | .ret => Laws.RowOfEncoding.ret
  | .jp nnn => Laws.RowOfEncoding.jp nnn
  | .call nnn => Laws.RowOfEncoding.call nnn
  | .seByte x kk => Laws.RowOfEncoding.seByte x kk
  | .sneByte x kk => Laws.RowOfEncoding.sneByte x kk
  | .seReg x y => Laws.RowOfEncoding.seReg x y
  | .ldByte x kk => Laws.RowOfEncoding.ldByte x kk
  | .addByte x kk => Laws.RowOfEncoding.addByte x kk
  | .ldReg x y => Laws.RowOfEncoding.ldReg x y
  | .orReg x y => Laws.RowOfEncoding.orReg x y
  | .andReg x y => Laws.RowOfEncoding.andReg x y
  | .xorReg x y => Laws.RowOfEncoding.xorReg x y
  | .addReg x y => Laws.RowOfEncoding.addReg x y
  | .subReg x y => Laws.RowOfEncoding.subReg x y
  | .shr x y => Laws.RowOfEncoding.shr x y
  | .subnReg x y => Laws.RowOfEncoding.subnReg x y
  | .shl x y => Laws.RowOfEncoding.shl x y
  | .sneReg x y => Laws.RowOfEncoding.sneReg x y
  | .ldI nnn => Laws.RowOfEncoding.ldI nnn
  | .jpV0 nnn => Laws.RowOfEncoding.jpV0 nnn
  | .rnd x kk => Laws.RowOfEncoding.rnd x kk
  | .drw x y n => Laws.RowOfEncoding.drw x y n
  | .skp x => Laws.RowOfEncoding.skp x
  | .sknp x => Laws.RowOfEncoding.sknp x
  | .ldVxDt x => Laws.RowOfEncoding.ldVxDt x
  | .ldVxKey x => Laws.RowOfEncoding.ldVxKey x
  | .ldDtVx x => Laws.RowOfEncoding.ldDtVx x
  | .ldStVx x => Laws.RowOfEncoding.ldStVx x
  | .addI x => Laws.RowOfEncoding.addI x
  | .ldFont x => Laws.RowOfEncoding.ldFont x
  | .ldBcd x => Laws.RowOfEncoding.ldBcd x
  | .dump x => Laws.RowOfEncoding.dump x
  | .load x => Laws.RowOfEncoding.load x

theorem selects_iff (r : OpcodeRow) (w : Word) : r.selects w = true ↔ w &&& r.mask = r.pattern := beq_iff_eq

/-- Two rows of the map differ on a bit that both masks keep, or are the same row. -/
theorem opcodeMap_rows_disjoint :
    ∀ r ∈ opcodeMap, ∀ q ∈ opcodeMap, r.pattern &&& q.mask = q.pattern &&& r.mask → r = q := by decide

theorem selected_row_unique {w : Word} {r q : OpcodeRow} (hr : r ∈ opcodeMap) (hq : q ∈ opcodeMap)
    (hrw : r.selects w = true) (hqw : q.selects w = true) : r = q := by
  refine opcodeMap_rows_disjoint r hr q hq ?_
  rw [← (selects_iff r w).mp hrw, ← (selects_iff q w).mp hqw, BitVec.and_assoc, BitVec.and_assoc,
    BitVec.and_comm r.mask]

/-- The mask of a row keeps the family and what the family dispatches on: nothing more, the low nibble, the low byte or
the whole word. -/
theorem opcodeMap_masks : ∀ r ∈ opcodeMap,
    (r.mask = 0xF000 ∧ r.pattern.toNat / 4096 ∉ [0x0, 0x5, 0x8, 0x9, 0xE, 0xF]) ∨
      (r.mask = 0xF00F ∧ r.pattern.toNat / 4096 ∈ [0x5, 0x8, 0x9]) ∨
      (r.mask = 0xF0FF ∧ r.pattern.toNat / 4096 ∈ [0xE, 0xF]) ∨ r.mask = 0xFFFF := by decide

theorem opcodeMap_patterns_decode : ∀ r ∈ opcodeMap, decode r.pattern ≠ none := by decide

/-- A word that selects a row agrees with the row's pattern on everything legality depends on. -/
theorem illegal_pattern_of_selects {w : Word} {r : OpcodeRow} (hr : r ∈ opcodeMap) (hs : r.selects w = true)
    (hw : Illegal w) : Illegal r.pattern := by
  have hp := (selects_iff r w).mp hs
  have hkeeps (k : Nat) (hk : k ≤ 12) (hm : r.mask.toNat = 0xF000 ||| (2 ^ k - 1)) :
      w.toNat / 4096 * 4096 + w.toNat % 2 ^ k = r.pattern.toNat := by
    rw [← Laws.RowOfEncoding.and_nibble_mask _ k w.isLt hk, ← hm, ← BitVec.toNat_and, hp]
  rcases opcodeMap_masks r hr with ⟨hm, hf⟩ | ⟨hm, hf⟩ | ⟨hm, hf⟩ | hm
  · have hk := hkeeps 0 (by decide) (by rw [hm]; rfl)
    have hfamily : r.pattern.toNat / 4096 = w.toNat / 4096 := by omega
    simp only [hfamily, List.mem_cons, not_or] at hf
    simp [Illegal, hf] at hw
  · have hk := hkeeps 4 (by decide) (by rw [hm]; rfl)
    have hfamily : r.pattern.toNat / 4096 = w.toNat / 4096 := by omega
    have hlow : r.pattern.toNat % 16 = w.toNat % 16 := by omega
    simp only [hfamily, List.mem_cons, List.not_mem_nil, or_false] at hf
    rcases hf with hf | hf | hf <;> simpa [Illegal, hfamily, hlow, hf] using hw
  · have hk := hkeeps 8 (by decide) (by rw [hm]; rfl)
    have hfamily : r.pattern.toNat / 4096 = w.toNat / 4096 := by omega
    have hbyte : r.pattern.toNat % 256 = w.toNat % 256 := by omega
    simp only [hfamily, List.mem_cons, List.not_mem_nil, or_false] at hf
    rcases hf with hf | hf <;> simpa [Illegal, hfamily, hbyte, hf] using hw
  · have hk := hkeeps 12 (by decide) (by rw [hm]; rfl)
    have hwp : w = r.pattern := BitVec.eq_of_toNat_eq (by omega)
    rwa [← hwp]

theorem decode_isSome_iff_selects (w : Word) :
    (decode w).isSome = true ↔ ∃ r ∈ opcodeMap, r.selects w = true := by
  constructor
  · intro h
    obtain ⟨i, hi⟩ := Option.isSome_iff_exists.mp h
    obtain ⟨hs, hr⟩ := instr_selects_own_row i
    exact ⟨i.row, hr, encodeOfDecode w i hi ▸ hs⟩
  · rintro ⟨r, hr, hs⟩
    rw [Option.isSome_iff_ne_none, ne_eq, illegalWordsAreThoseListed]
    intro hw
    have hp := illegal_pattern_of_selects hr hs hw
    exact opcodeMap_patterns_decode r hr ((illegalWordsAreThoseListed _).mpr hp)

/-- Settles O9: an instruction's word selects the instruction's own row, and no illegal word selects a row. -/
theorem wordsSelectOneRowOrNone : Obligations.WordsSelectOneRowOrNone := by
  intro w
  refine ⟨decode_isSome_iff_selects w, fun r hr q hq hrw hqw => selected_row_unique hr hq hrw hqw, fun i hi => ?_⟩
  obtain ⟨hs, hr⟩ := instr_selects_own_row i
  exact ⟨hr, encodeOfDecode w i hi ▸ hs⟩

/-! ### The operands of a decoded word -/

section
variable {w : Word} {op : Nat}

theorem nnn_of_encNNN {nnn : Addr} (hop : op < 16) (h : encNNN op nnn = w) : nnn.toNat = w.toNat % 4096 := by
  rw [← h, ← toNat_fieldNNN, fieldNNN_encNNN op nnn hop]

theorem x_kk_of_encXKK {x : Idx} {kk : Byte} (hop : op < 16) (h : encXKK op x kk = w) :
    x.val = w.toNat / 256 % 16 ∧ kk.toNat = w.toNat % 256 := by
  rw [← h, ← val_fieldX, ← toNat_fieldKK, fieldX_encXKK op x kk hop, fieldKK_encXKK op x kk hop]
  exact ⟨rfl, rfl⟩

theorem x_y_of_encXYN {x y : Idx} {n : Nat} (hop : op < 16) (h : encXYN op x y n = w) :
    x.val = w.toNat / 256 % 16 ∧ y.val = w.toNat / 16 % 16 := by
  rw [← h, ← val_fieldX, ← val_fieldY, fieldX_encXYN op x y n hop, fieldY_encXYN op x y n hop]
  exact ⟨rfl, rfl⟩

theorem x_of_encXSS {x : Idx} {sub : Nat} (hop : op < 16) (hsub : sub < 256) (h : encXSS op x sub = w) :
    x.val = w.toNat / 256 % 16 := by
  rw [← h, ← val_fieldX, fieldX_encXSS op x sub hop hsub]

theorem n_of_decode_drw {x y : Idx} {n : Nat} (h : decode w = some (.drw x y n)) : n = w.toNat % 16 := by
  have hn : n < 16 := of_decide_eq_true (decodedInstrIsWellFormed w _ h)
  rw [← encodeOfDecode w _ h, ← fieldN_eq, encode, fieldN_encXYN 0xD x y n (by decide), Nat.mod_eq_of_lt hn]

end

/-- Settles O11: the word is the encoding of what it decodes to, and each format's fields are read back from it. -/
theorem operandsAreTheWordsFields : Obligations.OperandsAreTheWordsFields := by
  intro w x y n kk nnn
  refine ⟨?nnn, ?xkk, ?xy, n_of_decode_drw, ?x⟩
  case nnn =>
    rintro (h | h | h | h) <;> exact nnn_of_encNNN (by decide) (encodeOfDecode w _ h)
  case xkk =>
    rintro (h | h | h | h | h) <;> exact x_kk_of_encXKK (by decide) (encodeOfDecode w _ h)
  case xy =>
    rintro (h | h | h | h | h | h | h | h | h | h | h | h) <;>
      exact x_y_of_encXYN (by decide) (encodeOfDecode w _ h)
  case x =>
    rintro (h | h | h | h | h | h | h | h | h | h | h) <;>
      exact x_of_encXSS (by decide) (by decide) (encodeOfDecode w _ h)

/-- Settles O12: the decoder evaluates to the instruction of each word. -/
theorem writtenOutWordsDecode : Obligations.WrittenOutWordsDecode := by
  unfold Obligations.WrittenOutWordsDecode
  decide

end Sys2Proof.Claims
end

section
/-! PROOFS. What an instruction can do, said once: every `exec` answers a next state that is one of the effects below
(60_exceptions.md R212, R218), so a rule over all instructions is a case split over the effects. -/

open Sys2Proof Sys2Proof.Machine

namespace Sys2Proof.Claims

/-! ### The meaning of each instruction, as a next state -/

section
variable (s : State)

theorem exec_ret_of_empty (h : s.sp = 0) : exec .ret s = .next (s.raise (.stackUnderflow s.pc 0)) := by
  simp [exec, execRet, h]

theorem exec_ret_of_ne_zero (h : s.sp ≠ 0) : exec .ret s = .next (s.pop.setPc s.top) := by
  simp [exec, execRet, h]

theorem exec_jp (nnn : Addr) : exec (.jp nnn) s = .next (s.setPc (addrWord nnn)) := rfl

theorem exec_call_of_full (nnn : Addr) (h : 16 ≤ s.sp) :
    exec (.call nnn) s = .next (s.raise (.stackOverflow s.pc s.sp)) := if_pos h

theorem exec_call_of_lt (nnn : Addr) (h : s.sp < 16) :
    exec (.call nnn) s = .next ((s.push (s.pc + 2)).setPc (addrWord nnn)) := if_neg (Nat.not_le.mpr h)

theorem exec_jpV0 (nnn : Addr) : exec (.jpV0 nnn) s = .next (s.setPc (byteWord (s.reg 0) + addrWord nnn)) := rfl

theorem exec_ldReg (x y : Idx) : exec (.ldReg x y) s = .next (s.setReg x (s.reg y)).advance := rfl

theorem exec_orReg (x y : Idx) : exec (.orReg x y) s = .next (s.setReg x (s.reg x ||| s.reg y)).advance := rfl

theorem exec_andReg (x y : Idx) : exec (.andReg x y) s = .next (s.setReg x (s.reg x &&& s.reg y)).advance := rfl

theorem exec_xorReg (x y : Idx) : exec (.xorReg x y) s = .next (s.setReg x (s.reg x ^^^ s.reg y)).advance := rfl

theorem exec_subReg (x y : Idx) : exec (.subReg x y) s =
    .next (s.setRegThenFlag x (s.reg x - s.reg y) (noBorrowFlag (s.reg x) (s.reg y))).advance := rfl

theorem exec_shr (x y : Idx) :
    exec (.shr x y) s = .next (s.setRegThenFlag x (s.reg x >>> 1) (shrFlag (s.reg x))).advance := rfl

theorem exec_subnReg (x y : Idx) : exec (.subnReg x y) s =
    .next (s.setRegThenFlag x (s.reg y - s.reg x) (noBorrowFlag (s.reg y) (s.reg x))).advance := rfl

theorem exec_shl (x y : Idx) :
    exec (.shl x y) s = .next (s.setRegThenFlag x (s.reg x <<< 1) (shlFlag (s.reg x))).advance := rfl

theorem exec_rnd (x : Idx) (kk : Byte) :
    exec (.rnd x kk) s = .next (s.consumeRandom.setReg x (s.nextRandom &&& kk)).advance := rfl

theorem exec_addI (x : Idx) : exec (.addI x) s = .next (s.setI (s.i + byteWord (s.reg x))).advance := rfl

theorem exec_ldFont (x : Idx) : exec (.ldFont x) s = .next (s.setI (fontAddr (s.reg x))).advance := rfl

theorem exec_drw_of_past (x y : Idx) (n : Nat) (h : 0x1000 < s.base + n) :
    exec (.drw x y n) s = .next (s.raise (.memRange s.pc (encode (.drw x y n)) s.base n)) := by
  have hr : rangeOk s.base n = false := by rw [Bool.eq_false_iff, ne_eq, rangeOk_iff]; omega
  simp [exec, execDrw, hr]

theorem exec_drw_of_fits (x y : Idx) (n : Nat) (h : s.base + n ≤ 0x1000) : exec (.drw x y n) s =
    .next ((s.setFb (s.drawn x y n).fb).setFlag (flagByte (s.drawn x y n).collision)).advance := by
  simp [exec, execDrw, (rangeOk_iff s.base n).mpr h]

theorem exec_ldBcd (x : Idx) :
    exec (.ldBcd x) s = .next (s.storeAtI (encode (.ldBcd x)) (bcdDigits (s.reg x))) := rfl

theorem exec_dump (x : Idx) : exec (.dump x) s = .next (s.storeAtI (encode (.dump x)) (s.regsUpTo x)) := rfl

theorem exec_load_of_past (x : Idx) (h : 0x1000 < s.base + (x.val + 1)) :
    exec (.load x) s = .next (s.raise (.memRange s.pc (encode (.load x)) s.base (x.val + 1))) := by
  have hr : rangeOk s.base (x.val + 1) = false := by rw [Bool.eq_false_iff, ne_eq, rangeOk_iff]; omega
  simp [exec, execLoad, hr]

theorem exec_load_of_fits (x : Idx) (h : s.base + (x.val + 1) ≤ 0x1000) : exec (.load x) s =
    .next (s.setRegs (setRegsFrom 0 (s.mem.readBytes s.base (x.val + 1)) s.v)).advance := by
  simp [exec, execLoad, (rangeOk_iff s.base (x.val + 1)).mpr h]

theorem exec_skp (x : Idx) : exec (.skp x) s = .next (s.skipIf (s.pressed (keyIndex (s.reg x)))) := rfl

theorem exec_sknp (x : Idx) : exec (.sknp x) s = .next (s.skipIf (!s.pressed (keyIndex (s.reg x)))) := rfl

theorem exec_ldVxKey_of_none (x : Idx) (h : s.leastPressed = none) : exec (.ldVxKey x) s = .next s := by
  simp [exec, execLdVxKey, h]

theorem exec_ldVxKey_of_some (x : Idx) {k : Idx} (h : s.leastPressed = some k) :
    exec (.ldVxKey x) s = .next (s.setReg x (BitVec.ofNat 8 k.val)).advance := by
  simp [exec, execLdVxKey, h]

theorem exec_ldStVx (x : Idx) : exec (.ldStVx x) s = .next (s.setSt (s.reg x)).advance := rfl

end

/-! ### The faults of the instructions (60_exceptions.md R210, R211) -/

/-- `i` stores `len` bytes through I. -/
def Stores (i : Instr) (len : Nat) : Prop := ∃ x, i = .ldBcd x ∧ len = 3 ∨ i = .dump x ∧ len = x.val + 1

/-- Instruction `i` raises `r` in `s`. -/
inductive FaultOf (s : State) : Instr → FaultRecord → Prop where
  | underflow (h : s.sp = 0) : FaultOf s .ret (.stackUnderflow s.pc 0)
  | overflow {nnn : Addr} (h : 16 ≤ s.sp) : FaultOf s (.call nnn) (.stackOverflow s.pc s.sp)
  | drwRange {x y : Idx} {n : Nat} (h : 0x1000 < s.base + n) :
    FaultOf s (.drw x y n) (.memRange s.pc (encode (.drw x y n)) s.base n)
  | storeRange {i : Instr} {len : Nat} (hi : Stores i len) (h : 0x1000 < s.base + len) :
    FaultOf s i (.memRange s.pc (encode i) s.base len)
  | storeReadonly {i : Instr} {len a : Nat} (hi : Stores i len) (hfit : s.base + len ≤ 0x1000) (hle : s.base ≤ a)
    (hlt : a < s.base + len) (ha : inFont a = true) (hleast : ∀ b, s.base ≤ b → b < a → inFont b = false) :
    FaultOf s i (.memReadonly s.pc (encode i) a)
  | loadRange {x : Idx} (h : 0x1000 < s.base + (x.val + 1)) :
    FaultOf s (.load x) (.memRange s.pc (encode (.load x)) s.base (x.val + 1))

theorem FaultOf.pc0 {s : State} {i : Instr} {r : FaultRecord} (h : FaultOf s i r) : r.pc0 = some s.pc := by
  cases h <;> rfl

/-! ### The effects -/

/-- `i` writes `x`, and no flag. -/
def WritesReg (i : Instr) (x : Idx) : Prop :=
  (∃ kk, i = .ldByte x kk ∨ i = .addByte x kk) ∨
    (∃ y, i = .ldReg x y ∨ i = .orReg x y ∨ i = .andReg x y ∨ i = .xorReg x y) ∨ i = .ldVxDt x ∨ i = .ldVxKey x

/-- `i` writes `x`, then VF as its flag. -/
def WritesRegThenFlag (i : Instr) (x : Idx) : Prop :=
  ∃ y, i = .addReg x y ∨ i = .subReg x y ∨ i = .shr x y ∨ i = .subnReg x y ∨ i = .shl x y

/-- `i` writes I. -/
def WritesIndex (i : Instr) : Prop := (∃ nnn, i = .ldI nnn) ∨ (∃ x, i = .addI x) ∨ ∃ x, i = .ldFont x

/-- `i` is one of the six conditional skips. -/
def IsSkip (i : Instr) : Prop :=
  (∃ x kk, i = .seByte x kk ∨ i = .sneByte x kk) ∨ (∃ x y, i = .seReg x y ∨ i = .sneReg x y) ∨
    ∃ x, i = .skp x ∨ i = .sknp x

/-- What `i` executed in `s` leaves: a fault, the unchanged state of a wait, or one of the completions. -/
inductive Effect (s : State) : Instr → State → Prop where
  | fault {i : Instr} {r : FaultRecord} (h : FaultOf s i r) : Effect s i (s.raise r)
  | wait {x : Idx} (h : s.leastPressed = none) : Effect s (.ldVxKey x) s
  | writeReg {i : Instr} {x : Idx} (h : WritesReg i x) (b : Byte) : Effect s i (s.setReg x b).advance
  | writeRegThenFlag {i : Instr} {x : Idx} (h : WritesRegThenFlag i x) (b c : Byte) :
    Effect s i (s.setRegThenFlag x b c).advance
  | random (x : Idx) (kk b : Byte) : Effect s (.rnd x kk) (s.consumeRandom.setReg x b).advance
  | loadRegs (x : Idx) :
    Effect s (.load x) (s.setRegs (setRegsFrom 0 (s.mem.readBytes s.base (x.val + 1)) s.v)).advance
  | writeIndex {i : Instr} (h : WritesIndex i) (w : Word) : Effect s i (s.setI w).advance
  | writeDt (x : Idx) (b : Byte) : Effect s (.ldDtVx x) (s.setDt b).advance
  | writeSt (x : Idx) (b : Byte) : Effect s (.ldStVx x) (s.setSt b).advance
  | clear : Effect s .cls (s.setFb Framebuffer.blank).advance
  | draw (x y : Idx) (n : Nat) (fb : Framebuffer) (c : Byte) :
    Effect s (.drw x y n) ((s.setFb fb).setFlag c).advance
  | store {i : Instr} {bytes : List Byte} (hi : Stores i bytes.length) (hfit : s.base + bytes.length ≤ 0x1000)
    (hfont : ∀ a, s.base ≤ a → a < s.base + bytes.length → inFont a = false) :
    Effect s i (s.setMem (s.mem.writeBytes s.base bytes)).advance
  | skip {i : Instr} (h : IsSkip i) (c : Bool) : Effect s i (s.skipIf c)
  | jump (nnn : Addr) : Effect s (.jp nnn) (s.setPc (addrWord nnn))
  | jumpV0 (nnn : Addr) : Effect s (.jpV0 nnn) (s.setPc (byteWord (s.reg 0) + addrWord nnn))
  | call {nnn : Addr} (h : s.sp < 16) : Effect s (.call nnn) ((s.push (s.pc + 2)).setPc (addrWord nnn))
  | ret (h : s.sp ≠ 0) : Effect s .ret (s.pop.setPc s.top)

theorem effect_storeAtI (s : State) {i : Instr} {bytes : List Byte} (hi : Stores i bytes.length) :
    Effect s i (s.storeAtI (encode i) bytes) := by
  rcases s.storeAtI_cases (encode i) bytes with ⟨hpast, heq⟩ | ⟨a, hfit, hle, hlt, ha, hleast, heq⟩ | ⟨hfit, hfont, heq⟩
  · exact heq ▸ .fault (.storeRange hi hpast)
  · exact heq ▸ .fault (.storeReadonly hi hfit hle hlt ha hleast)
  · exact heq ▸ .store hi hfit hfont

/-- `exec` answers a next state, and it is one of the effects. -/
theorem exec_effect (i : Instr) (s : State) : ∃ t, exec i s = .next t ∧ Effect s i t := by
  cases i with
  | cls => exact ⟨_, exec_cls s, .clear⟩
  | ret =>
    by_cases h : s.sp = 0
    · exact ⟨_, exec_ret_of_empty s h, .fault (.underflow h)⟩
    · exact ⟨_, exec_ret_of_ne_zero s h, .ret h⟩
  | jp nnn => exact ⟨_, exec_jp s nnn, .jump nnn⟩
  | call nnn =>
    rcases Nat.lt_or_ge s.sp 16 with h | h
    · exact ⟨_, exec_call_of_lt s nnn h, .call h⟩
    · exact ⟨_, exec_call_of_full s nnn h, .fault (.overflow h)⟩
  | seByte | sneByte | seReg | sneReg | skp | sknp => exact ⟨_, rfl, .skip (by simp [IsSkip]) _⟩
  | ldByte | addByte | ldReg | orReg | andReg | xorReg | ldVxDt => exact ⟨_, rfl, .writeReg (by simp [WritesReg]) _⟩
  | addReg | subReg | shr | subnReg | shl => exact ⟨_, rfl, .writeRegThenFlag (by simp [WritesRegThenFlag]) _ _⟩
  | ldI | addI | ldFont => exact ⟨_, rfl, .writeIndex (by simp [WritesIndex]) _⟩
  | jpV0 nnn => exact ⟨_, exec_jpV0 s nnn, .jumpV0 nnn⟩
  | rnd x kk => exact ⟨_, exec_rnd s x kk, .random x kk _⟩
  | drw x y n =>
    rcases Nat.lt_or_ge 0x1000 (s.base + n) with h | h
    · exact ⟨_, exec_drw_of_past s x y n h, .fault (.drwRange h)⟩
    · exact ⟨_, exec_drw_of_fits s x y n h, .draw x y n _ _⟩
  | ldVxKey x =>
    rcases h : s.leastPressed with _ | k
    · exact ⟨_, exec_ldVxKey_of_none s x h, .wait h⟩
    · exact ⟨_, exec_ldVxKey_of_some s x h, .writeReg (.inr (.inr (.inr rfl))) _⟩
  | ldDtVx x => exact ⟨_, exec_ldDtVx x s, .writeDt x _⟩
  | ldStVx x => exact ⟨_, exec_ldStVx s x, .writeSt x _⟩
  | ldBcd x => exact ⟨_, exec_ldBcd s x, effect_storeAtI s ⟨x, .inl ⟨rfl, length_bcdDigits _⟩⟩⟩
  | dump x => exact ⟨_, exec_dump s x, effect_storeAtI s ⟨x, .inr ⟨rfl, s.length_regsUpTo x⟩⟩⟩
  | load x =>
    rcases Nat.lt_or_ge 0x1000 (s.base + (x.val + 1)) with h | h
    · exact ⟨_, exec_load_of_past s x h, .fault (.loadRange h)⟩
    · exact ⟨_, exec_load_of_fits s x h, .loadRegs x⟩

theorem effect_of_exec {i : Instr} {s t : State} (h : exec i s = .next t) : Effect s i t := by
  obtain ⟨u, hu, heffect⟩ := exec_effect i s
  cases h.symm.trans hu
  exact heffect

end Sys2Proof.Claims
end

section
/-! PROOFS. The invariant of `State.Inv`: it holds after RESET, and every effect of an instruction fetched inside memory
and every transaction of the host keep it (10_state.md R24 to R27; 20_memory.md R53; 60_exceptions.md R211, R212). -/

open Sys2Proof Sys2Proof.Machine

namespace Sys2Proof.Claims

/-! ### Which changes of the state keep the invariant -/

theorem reset_inv : State.reset.Inv where
  sp_le := by decide
  stack_le := by decide
  pc_le := by decide
  mem_wf := Memory.wf_nil
  font_intact _ _ := rfl
  fault_pc _ h := nomatch h

section
variable {s t : State}

/-- Registers, I, timers, keys, pixels, the random source and the schedule play no part in the invariant. -/
theorem inv_of_same (h : s.Inv) (hsp : t.sp = s.sp) (hstack : t.stack = s.stack) (hpc : t.pc = s.pc)
    (hmem : t.mem = s.mem) (hrun : t.runState = s.runState) : t.Inv where
  sp_le := hsp ▸ h.sp_le
  stack_le := hstack ▸ h.stack_le
  pc_le := hpc ▸ h.pc_le
  mem_wf := hmem ▸ h.mem_wf
  font_intact := hmem ▸ h.font_intact
  fault_pc := hrun ▸ hpc ▸ h.fault_pc

/-- While the core runs no record is latched, and pc may move within its bound. -/
theorem inv_setPc {w : Word} (h : s.Inv) (hrun : s.runState = .running) (hw : w.toNat ≤ 0x10FE) : (s.setPc w).Inv where
  sp_le := h.sp_le
  stack_le := h.stack_le
  pc_le := hw
  mem_wf := h.mem_wf
  font_intact := h.font_intact
  fault_pc r hr := by rw [State.setPc_runState, hrun] at hr; cases hr

theorem inv_raise {r : FaultRecord} (h : s.Inv) (hr : r.pc0 = none ∨ r.pc0 = some s.pc) : (s.raise r).Inv where
  sp_le := h.sp_le
  stack_le := h.stack_le
  pc_le := h.pc_le
  mem_wf := h.mem_wf
  font_intact := h.font_intact
  fault_pc _ hq := by cases hq; exact hr

/-- Bytes written inside memory and outside the font region. -/
theorem inv_writeBytes {a : Nat} {bytes : List Byte} (h : s.Inv) (hfit : a + bytes.length ≤ 0x1000)
    (hfont : ∀ b, a ≤ b → b < a + bytes.length → inFont b = false) : (s.setMem (s.mem.writeBytes a bytes)).Inv where
  sp_le := h.sp_le
  stack_le := h.stack_le
  pc_le := h.pc_le
  mem_wf := Memory.wf_writeBytes h.mem_wf hfit
  font_intact b hb := by
    have hout : b < a ∨ a + bytes.length ≤ b := by
      by_contra hin
      have := hfont b (by omega) (by omega)
      simp [hb] at this
    rw [State.setMem_mem, Memory.read_writeBytes_out h.mem_wf hfit b hout, h.font_intact b hb]
  fault_pc := h.fault_pc

theorem inv_push {w : Word} (h : s.Inv) (hsp : s.sp < 16) (hw : w.toNat ≤ 0x1000) : (s.push w).Inv where
  sp_le := hsp
  stack_le j := by
    rw [s.push_stack_getElem w j.val j.isLt]
    split
    · exact hw
    · exact h.stack_le j
  pc_le := h.pc_le
  mem_wf := h.mem_wf
  font_intact := h.font_intact
  fault_pc := h.fault_pc

theorem inv_pop (h : s.Inv) : s.pop.Inv where
  sp_le := (Nat.sub_le _ _).trans h.sp_le
  stack_le := h.stack_le
  pc_le := h.pc_le
  mem_wf := h.mem_wf
  font_intact := h.font_intact
  fault_pc := h.fault_pc

theorem top_le (h : s.Inv) : s.top.toNat ≤ 0x1000 := by
  have hsp : s.sp - 1 < 16 := by have := h.sp_le; omega
  rw [s.top_eq hsp]
  exact h.stack_le ⟨s.sp - 1, hsp⟩

end

/-! ### Instructions -/

/-! A pc from which the fetch succeeds leaves room for the advance and the skip. -/

theorem toNat_add_two_le {w : Word} (hw : w.toNat ≤ 0xFFE) : (w + 2).toNat ≤ 0x1000 := by bv_omega

theorem toNat_add_four_le {w : Word} (hw : w.toNat ≤ 0xFFE) : (w + 4).toNat ≤ 0x1002 := by bv_omega

theorem inv_advance {s : State} (h : s.Inv) (hrun : s.runState = .running) (hpc : s.pc.toNat ≤ 0xFFE) : s.advance.Inv :=
  inv_setPc h hrun ((toNat_add_two_le hpc).trans (by decide))

theorem inv_skipIf {s : State} (h : s.Inv) (hrun : s.runState = .running) (hpc : s.pc.toNat ≤ 0xFFE) (c : Bool) :
    (s.skipIf c).Inv := by
  cases c with
  | false => exact inv_setPc h hrun ((toNat_add_two_le hpc).trans (by decide))
  | true => exact inv_setPc h hrun ((toNat_add_four_le hpc).trans (by decide))

/-- V0 + nnn, a byte and a 12-bit address, does not wrap (R107). -/
theorem toNat_byteWord_add_addrWord (b : Byte) (nnn : Addr) :
    (byteWord b + addrWord nnn).toNat = b.toNat + nnn.toNat := by
  have hb : (byteWord b).toNat = b.toNat := BitVec.toNat_setWidth_of_le (by decide)
  rw [BitVec.toNat_add, hb, toNat_addrWord]
  omega

theorem inv_of_effect {s t : State} {i : Instr} (h : s.Inv) (hrun : s.runState = .running) (hpc : s.pc.toNat ≤ 0xFFE)
    (heffect : Effect s i t) : t.Inv := by
  cases heffect with
  | fault hf => exact inv_raise h (.inr hf.pc0)
  | wait => exact h
  | writeReg | writeRegThenFlag | random | loadRegs | writeIndex | writeDt | writeSt | clear | draw =>
    exact inv_advance (inv_of_same h rfl rfl rfl rfl rfl) hrun hpc
  | store _ hfit hfont => exact inv_advance (inv_writeBytes h hfit hfont) hrun hpc
  | skip _ c => exact inv_skipIf h hrun hpc c
  | jump nnn => exact inv_setPc h hrun (by rw [toNat_addrWord]; omega)
  | jumpV0 nnn => exact inv_setPc h hrun (by rw [toNat_byteWord_add_addrWord]; omega)
  | call hsp => exact inv_setPc (inv_push h hsp (toNat_add_two_le hpc)) hrun (by rw [toNat_addrWord]; omega)
  | ret => exact inv_setPc (inv_pop h) hrun ((top_le h).trans (by decide))

/-! ### Transactions and steps -/

theorem inv_of_runStep {s t : State} (h : s.Inv) (hrun : s.runState = .running) (ht : s.runStep = .next t) : t.Inv := by
  rcases s.runStep_cases with ⟨-, heq⟩ | ⟨-, -, heq⟩ | ⟨i, hpc, -, heq⟩
  · cases heq.symm.trans ht; exact inv_raise h (.inr rfl)
  · cases heq.symm.trans ht; exact inv_raise h (.inr rfl)
  · exact inv_of_effect h hrun hpc (effect_of_exec (heq.symm.trans ht))

theorem inv_loadImage {s : State} (h : s.Inv) (image : List Byte) : (s.loadImage image).Inv := by
  unfold State.loadImage
  split
  · exact inv_raise h (.inl rfl)
  · next hlen =>
    simp only [Config.maxImage, Config.loadAddr] at hlen ⊢
    refine inv_writeBytes h (by omega) fun b hb _ => ?_
    rw [Bool.eq_false_iff, ne_eq, inFont_iff]
    simp only [fontBase]
    omega

theorem inv_of_transact {s t : State} {x : Transaction} (h : s.Inv) (ht : s.transact x = .next t) : t.Inv := by
  cases x with
  | reset => cases ht; exact inv_of_same reset_inv rfl rfl rfl rfl rfl
  | load image => cases ht; exact inv_loadImage h image
  | step =>
    rcases hrun : s.runState with _ | r
    · rw [State.transact_step_running hrun] at ht
      exact inv_of_runStep h hrun ht
    · rw [State.transact_step_faulted hrun] at ht
      cases ht; exact h
  | tick | key => cases ht; exact inv_of_same h rfl rfl rfl rfl rfl
  | fbRead => cases ht; exact h

theorem inv_setSchedule {s : State} (h : s.Inv) (ts : List Transaction) : (s.setSchedule ts).Inv :=
  inv_of_same h rfl rfl rfl rfl rfl

/-- Settles O4: a step is one transaction, and the schedule plays no part in the invariant. -/
theorem stepKeepsInv : Obligations.StepKeepsInv := by
  intro s t h ht
  rcases hsch : s.schedule with _ | ⟨x, ts⟩
  · rw [step_nil hsch] at ht
    rcases hrun : s.runState with _ | r
    · rw [State.stepCore_running hrun] at ht
      exact inv_of_runStep h hrun ht
    · rw [State.stepCore_faulted hrun] at ht
      cases ht
  · rw [step_cons hsch] at ht
    exact inv_of_transact (inv_setSchedule h ts) ht

/-- Settles O3: the start of the induction of O5. -/
theorem resetStateSatisfiesInv : Obligations.ResetStateSatisfiesInv := reset_inv

/-- Settles O5: the invariant holds after RESET and every step keeps it. -/
theorem everyReachedStateSatisfiesInv : Obligations.EveryReachedStateSatisfiesInv :=
  fun ts k t ht => run_induction stepKeepsInv k _ t (inv_setSchedule reset_inv ts) ht

end Sys2Proof.Claims
end

section
/-! PROOFS. The step cycle (30_encoding.md R79 to R82), its faults and its replies (60_exceptions.md R212 to R219), and
the two states a core stays in: the wait for a key (44_keypad_timer.md R194) and the self-jump
(70_reset_and_hazards.md R259). -/

open Sys2Proof Sys2Proof.Machine

namespace Sys2Proof.Claims

/-! ### The STEP of a Running core -/

theorem fetchWord_eq_wordAtPc (s : State) : s.fetchWord = wordAtPc s := s.fetchWord_eq

section
variable {s u : State}

/-- The state a STEP runs in differs from the one before it in the schedule at most. -/
theorem StepIsNext.exists_eq_setSchedule (h : StepIsNext s u) : ∃ ts, u = s.setSchedule ts := by
  rcases h with ⟨-, rfl⟩ | ⟨ts, -, rfl⟩
  · exact ⟨u.schedule, rfl⟩
  · exact ⟨ts, rfl⟩

theorem StepIsNext.step_eq_runStep (h : StepIsNext s u) (hrun : s.runState = .running) : step s = u.runStep := by
  rcases h with ⟨hsch, rfl⟩ | ⟨ts, hsch, rfl⟩
  · rw [step_nil hsch, State.stepCore_running hrun]
  · rw [step_cons hsch]
    exact State.transact_step_running hrun

end

section
variable {s : State}

theorem runStep_of_past (hpc : 0xFFE < s.pc.toNat) : s.runStep = .next (s.raise (.fetchRange s.pc)) := by
  rcases s.runStep_cases with ⟨-, heq⟩ | ⟨hle, -, -⟩ | ⟨i, hle, -, -⟩
  · exact heq
  all_goals omega

theorem runStep_of_decode_none (hpc : s.pc.toNat ≤ 0xFFE) (hd : decode (wordAtPc s) = none) :
    s.runStep = .next (s.raise (.decodeFault s.pc (wordAtPc s))) := by
  rw [← fetchWord_eq_wordAtPc] at hd ⊢
  rcases s.runStep_cases with ⟨hlt, -⟩ | ⟨-, -, heq⟩ | ⟨i, -, hi, -⟩
  · omega
  · exact heq
  · simp [hd] at hi

theorem runStep_of_decode_some {i : Instr} (hpc : s.pc.toNat ≤ 0xFFE) (hd : decode (wordAtPc s) = some i) :
    s.runStep = exec i s := by
  rw [← fetchWord_eq_wordAtPc] at hd
  rcases s.runStep_cases with ⟨hlt, -⟩ | ⟨-, hnone, -⟩ | ⟨j, -, hj, heq⟩
  · omega
  · simp [hd] at hnone
  · rw [hd] at hj; cases hj; exact heq

/-- The STEP of a Running core answers a next state: a fault of the fetch, of the decode, or an effect of the decoded
instruction. -/
theorem runStep_effect (s : State) :
    (∃ r, s.runStep = .next (s.raise r)) ∨
      ∃ i t, s.pc.toNat ≤ 0xFFE ∧ decode (wordAtPc s) = some i ∧ s.runStep = .next t ∧ exec i s = .next t ∧
        Effect s i t := by
  rcases s.runStep_cases with ⟨-, heq⟩ | ⟨-, -, heq⟩ | ⟨i, hpc, hd, heq⟩
  · exact .inl ⟨_, heq⟩
  · exact .inl ⟨_, heq⟩
  · obtain ⟨t, ht, heffect⟩ := exec_effect i s
    exact .inr ⟨i, t, hpc, fetchWord_eq_wordAtPc s ▸ hd, heq.trans ht, ht, heffect⟩

end

/-- Settles O13: the schedule plays no part in the fetch, so the STEP runs the word at pc of the state before it. -/
theorem stepRunsTheDecodedInstruction : Obligations.StepRunsTheDecodedInstruction := by
  intro s u i hnext hrun hpc hd
  rw [hnext.step_eq_runStep hrun]
  obtain ⟨ts, rfl⟩ := hnext.exists_eq_setSchedule
  exact runStep_of_decode_some hpc hd

/-- Settles O14: the fetch is checked first. -/
theorem fetchOutsideMemoryFaults : Obligations.FetchOutsideMemoryFaults := by
  intro s u hnext hrun hpc
  rw [hnext.step_eq_runStep hrun]
  obtain ⟨ts, rfl⟩ := hnext.exists_eq_setSchedule
  exact runStep_of_past hpc

/-- Settles O15: the illegal words are those that do not decode. -/
theorem illegalWordFaults : Obligations.IllegalWordFaults := by
  intro s u hnext hrun hpc hw
  rw [hnext.step_eq_runStep hrun]
  obtain ⟨ts, rfl⟩ := hnext.exists_eq_setSchedule
  exact runStep_of_decode_none hpc ((illegalWordsAreThoseListed _).mpr hw)

/-! ### Faults are precise, and the core stops only when one is latched -/

/-- An effect that latches a record in a Running core is that fault. -/
theorem Effect.eq_raise {s t : State} {i : Instr} {r : FaultRecord} (h : Effect s i t) (hrun : s.runState = .running)
    (ht : t.runState = .faulted r) : FaultOf s i r ∧ t = s.raise r := by
  cases h with
  | fault hf => cases ht; exact ⟨hf, rfl⟩
  | _ => cases hrun.symm.trans ht

/-- Settles O18: the fetch, the decode and the effects of the instructions raise on the state the STEP began in. -/
theorem faultsArePrecise : Obligations.FaultsArePrecise := by
  intro s u t r hnext hrun ht hfault
  rw [hnext.step_eq_runStep hrun] at ht
  obtain ⟨ts, rfl⟩ := hnext.exists_eq_setSchedule
  rcases runStep_effect (s.setSchedule ts) with ⟨q, heq⟩ | ⟨i, t', -, -, heq, -, heffect⟩
  · cases heq.symm.trans ht; cases hfault; rfl
  · cases heq.symm.trans ht; exact (heffect.eq_raise hrun hfault).2

/-- Settles O19: a record latched by an instruction is one of the listed faults of the instructions. -/
theorem instructionFaultsAreThoseListed : Obligations.InstructionFaultsAreThoseListed := by
  intro i s t r hrun ht hfault
  obtain ⟨hf, -⟩ := (effect_of_exec ht).eq_raise hrun hfault
  cases hf with
  | underflow h => exact .inl ⟨rfl, h, rfl⟩
  | overflow h => exact .inr (.inl ⟨_, rfl, h, rfl⟩)
  | drwRange h => exact .inr (.inr (.inl ⟨_, _, _, rfl, h, rfl⟩))
  | storeRange hi h =>
    obtain ⟨x, hx⟩ := hi
    exact .inr (.inr (.inr (.inl ⟨x, _, hx, .inl ⟨h, rfl⟩⟩)))
  | storeReadonly hi hfit hle hlt ha hleast =>
    obtain ⟨x, hx⟩ := hi
    exact .inr (.inr (.inr (.inl ⟨x, _, hx, .inr ⟨hfit, _, hle, hlt, ha, hleast, rfl⟩⟩)))
  | loadRange h => exact .inr (.inr (.inr (.inr ⟨_, rfl, h, rfl⟩)))

/-- Settles O20: each effect is a next state, a fault too. -/
theorem execAlwaysAnswersNext : Obligations.ExecAlwaysAnswersNext := by
  intro i s
  obtain ⟨t, ht, -⟩ := exec_effect i s
  exact ⟨t, ht⟩

theorem exists_runStep_eq_next (s : State) : ∃ t, s.runStep = .next t := by
  rcases runStep_effect s with ⟨r, heq⟩ | ⟨i, t, -, -, heq, -, -⟩
  · exact ⟨_, heq⟩
  · exact ⟨t, heq⟩

theorem exists_transact_eq_next (s : State) (x : Transaction) : ∃ t, s.transact x = .next t := by
  cases x with
  | step =>
    rcases hrun : s.runState with _ | r
    · rw [State.transact_step_running hrun]; exact exists_runStep_eq_next s
    · exact ⟨s, State.transact_step_faulted hrun⟩
  | reset | load | tick | key | fbRead => exact ⟨_, rfl⟩

/-- Settles O21: every transaction answers a next state, so only the empty schedule of a Faulted core stops. -/
theorem stepStopsOnlyWhenLatched : Obligations.StepStopsOnlyWhenLatched := by
  intro s
  rcases hsch : s.schedule with _ | ⟨x, ts⟩
  · rw [step_nil hsch]
    rcases hrun : s.runState with _ | r
    · rw [State.stepCore_running hrun]; exact .inl (exists_runStep_eq_next s)
    · exact .inr ⟨r, rfl, rfl, State.stepCore_faulted hrun⟩
  · rw [step_cons hsch]; exact .inl (exists_transact_eq_next _ x)

/-! ### A Faulted core -/

theorem loadImage_of_fits (s : State) {image : List Byte} (h : image.length ≤ 3584) :
    s.loadImage image = s.setMem (s.mem.writeBytes 0x200 image) := if_neg (Nat.not_lt.mpr h)

theorem loadImage_of_oversized (s : State) {image : List Byte} (h : 3584 < image.length) :
    s.loadImage image = s.raise (.loadFault image.length) := if_pos h

theorem toNat_countDown (b : Byte) : (countDown b).toNat = b.toNat - 1 := by
  unfold countDown
  split
  · next h => subst h; rfl
  · bv_omega

/-- No transaction but RESET makes a Faulted core run. -/
theorem transact_faulted {s t : State} {x : Transaction} {r : FaultRecord} (hf : s.runState = .faulted r)
    (ht : s.transact x = .next t) (hx : x ≠ .reset) : ∃ q, t.runState = .faulted q := by
  cases x with
  | reset => exact absurd rfl hx
  | load image =>
    cases ht
    rcases Nat.lt_or_ge 3584 image.length with h | h
    · rw [loadImage_of_oversized s h]; exact ⟨_, rfl⟩
    · rw [loadImage_of_fits s h]; exact ⟨r, hf⟩
  | step =>
    rw [State.transact_step_faulted hf] at ht
    cases ht; exact ⟨r, hf⟩
  | tick | key | fbRead => cases ht; exact ⟨r, hf⟩

/-- Settles O17: every other transaction leaves a record latched. -/
theorem onlyResetLeavesFaulted : Obligations.OnlyResetLeavesFaulted := by
  intro s t r hf ht hrun
  rcases hsch : s.schedule with _ | ⟨x, ts⟩
  · rw [step_nil hsch, State.stepCore_faulted hf] at ht
    cases ht
  · rw [step_cons hsch] at ht
    have hx : x = .reset := by
      by_contra hx
      obtain ⟨q, hq⟩ := transact_faulted (s := s.setSchedule ts) hf ht hx
      rw [hrun] at hq; cases hq
    exact ⟨ts, by rw [hx]⟩

theorem stepReply_of_faulted {s t : State} {r : FaultRecord} (ht : s.transact .step = .next t)
    (hf : t.runState = .faulted r) : s.stepReply = .fault r := by simp [State.stepReply, ht, hf]

theorem stepReply_faulted {s : State} {r : FaultRecord} (hf : s.runState = .faulted r) : s.stepReply = .fault r :=
  stepReply_of_faulted (State.transact_step_faulted hf) hf

/-- Settles O16: each transaction but RESET writes its own part of the state and leaves run_state. -/
theorem faultedCoreExecutesNothing : Obligations.FaultedCoreExecutesNothing := by
  intro s r hf
  refine ⟨?stop, ?step, ?fbRead, ?tick, ?key, ?load⟩
  case stop =>
    intro hsch
    rw [step_nil hsch, State.stepCore_faulted hf]
  case step =>
    intro ts hsch
    rw [step_cons hsch]
    exact ⟨State.transact_step_faulted hf, stepReply_faulted hf⟩
  case fbRead =>
    intro ts hsch
    exact ⟨step_cons hsch, rfl⟩
  case tick =>
    intro ts hsch
    exact ⟨_, step_cons hsch, hf, toNat_countDown s.dt, toNat_countDown s.st⟩
  case key =>
    intro k p ts hsch
    exact ⟨_, step_cons hsch, hf, by rw [State.pressed_setKey, if_pos rfl]⟩
  case load =>
    intro image ts hsch hlen hwf
    refine ⟨_, step_cons hsch, ?_⟩
    rw [loadImage_of_fits _ hlen]
    exact ⟨hf, fun k hk => Memory.read_writeBytes_in hwf (by simp only [Config.memSize]; omega) k hk⟩

/-! ### The replies of a STEP -/

theorem stepReply_of_running {s t : State} (ht : s.transact .step = .next t) (hrun : t.runState = .running) :
    s.stepReply = if s.waits then .waiting else .ok := by simp [State.stepReply, ht, hrun]

/-- A STEP waits at LD Vx,K with no key pressed (44_keypad_timer.md R194). -/
theorem waits_iff_of_decode {s : State} {i : Instr} (hpc : s.pc.toNat ≤ 0xFFE) (hd : decode (wordAtPc s) = some i) :
    s.waits = true ↔ (∃ x, i = .ldVxKey x) ∧ ∀ k, s.pressed k = false := by
  rw [← fetchWord_eq_wordAtPc] at hd
  have hfetch : s.fetchOk = true := decide_eq_true hpc
  rw [State.waits, hfetch, hd, ← State.leastPressed_eq_none, Bool.true_and]
  cases i <;> simp

/-- Settles O22: a STEP of a Faulted core repeats its record; that of a Running core raises one, or completes the
decoded instruction, or waits. -/
theorem stepRepliesOkWaitingOrFault : Obligations.StepRepliesOkWaitingOrFault := by
  intro s
  rcases hrun : s.runState with _ | r
  · rcases runStep_effect s with ⟨r, heq⟩ | ⟨i, t, hpc, hd, heq, ht, -⟩
    · rw [← State.transact_step_running hrun] at heq
      exact ⟨_, heq, .inr (.inr ⟨r, stepReply_of_faulted heq rfl, rfl⟩)⟩
    · rw [← State.transact_step_running hrun] at heq
      refine ⟨t, heq, ?_⟩
      rcases hrun' : t.runState with _ | r
      · have hreply := stepReply_of_running heq hrun'
        have hwaits := waits_iff_of_decode hpc hd
        by_cases hw : (∃ x, i = .ldVxKey x) ∧ ∀ k, s.pressed k = false
        · obtain ⟨⟨x, rfl⟩, hk⟩ := hw
          rw [if_pos (hwaits.mpr ⟨⟨x, rfl⟩, hk⟩)] at hreply
          rw [exec_ldVxKey_of_none s x (State.leastPressed_eq_none.mpr hk)] at ht
          cases ht
          exact .inr (.inl ⟨hreply, rfl, rfl, ⟨x, hd⟩, hk⟩)
        · rw [if_neg (mt hwaits.mp hw)] at hreply
          exact .inl ⟨hreply, rfl, i, hd, ht, hw⟩
      · exact .inr (.inr ⟨r, stepReply_of_faulted heq hrun', rfl⟩)
  · exact ⟨s, State.transact_step_faulted hrun, .inr (.inr ⟨r, stepReply_faulted hrun, hrun⟩)⟩

/-! ### States a Running core stays in -/

theorem stepIsNext_self {s : State} (h : s.schedule = []) : StepIsNext s s := .inl ⟨h, rfl⟩

/-- Settles O50: with no key pressed LD Vx,K leaves the state as it is, so it is what every later STEP runs again. -/
theorem waitingChangesNothing : Obligations.WaitingChangesNothing := by
  intro x s hrun hpc hd hk
  have hexec : exec (.ldVxKey x) s = .next s := exec_ldVxKey_of_none s x (State.leastPressed_eq_none.mpr hk)
  have hstep : s.transact .step = .next s := by
    rw [State.transact_step_running hrun, runStep_of_decode_some hpc hd, hexec]
  refine ⟨hexec, ?_, fun hsch => run_of_fixpoint ?_⟩
  · exact (stepReply_of_running hstep hrun).trans (if_pos ((waits_iff_of_decode hpc hd).mpr ⟨⟨x, rfl⟩, hk⟩))
  · rw [stepRunsTheDecodedInstruction s s _ (stepIsNext_self hsch) hrun hpc hd, hexec]

/-- The word 1nnn with nnn = pc, below 0x1000, is the jump to pc. -/
theorem decode_selfJump {w : Word} (hw : w.toNat ≤ 0xFFE) :
    decode (BitVec.ofNat 16 (0x1000 + w.toNat)) = some (.jp (w.setWidth 12)) := by
  have hnnn : (w.setWidth 12).toNat = w.toNat := by rw [BitVec.toNat_setWidth]; omega
  rw [← decodeOfEncode (.jp (w.setWidth 12)) rfl, encode, encNNN, hnnn]

/-- Settles O58: the jump to pc writes pc with its own value. -/
theorem selfJumpStaysForEver : Obligations.SelfJumpStaysForEver := by
  intro s hrun hsch hend
  simp only [State.endOfRun, hrun, Bool.and_eq_true, beq_iff_eq, State.fetchOk, decide_eq_true_eq] at hend
  obtain ⟨hpc, hword⟩ := hend
  have hd : decode (wordAtPc s) = some (.jp (s.pc.setWidth 12)) := by
    rw [← fetchWord_eq_wordAtPc, hword, decode_selfJump hpc]
  have hsame : addrWord (s.pc.setWidth 12) = s.pc := by
    apply BitVec.eq_of_toNat_eq
    rw [toNat_addrWord, BitVec.toNat_setWidth]
    simp only [Config.lastFetch] at hpc
    omega
  refine run_of_fixpoint ?_
  rw [stepRunsTheDecodedInstruction s s _ (stepIsNext_self hsch) hrun hpc hd, exec_jp, hsame]
  rfl

end Sys2Proof.Claims
end

section
/-! PROOFS. Which instructions write what, and how pc moves, over all instructions (10_state.md R22 to R33;
30_encoding.md R82, R83): each part of the state is compared before and after every effect. -/

open Sys2Proof Sys2Proof.Machine

namespace Sys2Proof.Claims

section
variable {s t : State} {i : Instr}

/-! ### The parts an effect writes -/

theorem Effect.keys (h : Effect s i t) : t.keys = s.keys := by cases h <;> rfl

theorem Effect.schedule (h : Effect s i t) : t.schedule = s.schedule := by cases h <;> rfl

/-- The instructions that write Vy, as destination or as flag. -/
theorem Effect.reg_ne {y : Idx} (h : Effect s i t) (hne : t.reg y ≠ s.reg y) :
    WritesReg i y ∨ WritesRegThenFlag i y ∨ (∃ kk, i = .rnd y kk) ∨ (∃ x, y ≤ x ∧ i = .load x) ∨
      (y = 15 ∧ ((∃ x, WritesRegThenFlag i x) ∨ ∃ x z n, i = .drw x z n)) := by
  cases h with
  | @writeReg _ x hi b =>
    have hyx : y = x := by
      by_contra hyx
      exact hne (by rw [State.reg_advance, State.reg_setReg_other _ _ _ _ hyx])
    exact .inl (hyx ▸ hi)
  | @writeRegThenFlag _ x hi b c =>
    by_cases hy : y = 15
    · exact .inr (.inr (.inr (.inr ⟨hy, .inl ⟨x, hi⟩⟩)))
    · have hyx : y = x := by
        by_contra hyx
        exact hne (by rw [State.reg_advance, State.reg_setRegThenFlag, if_neg hy, if_neg hyx])
      exact .inr (.inl (hyx ▸ hi))
  | random x kk b =>
    have hyx : y = x := by
      by_contra hyx
      exact hne (by rw [State.reg_advance, State.reg_setReg_other _ _ _ _ hyx, State.reg_consumeRandom])
    exact .inr (.inr (.inl ⟨kk, by rw [hyx]⟩))
  | loadRegs x =>
    have hle : y ≤ x := by
      by_contra hlt
      exact hne (by rw [State.reg_advance, State.reg_setRegsFrom_readBytes, if_neg (mt Fin.le_def.mpr hlt)])
    exact .inr (.inr (.inr (.inl ⟨x, hle, rfl⟩)))
  | draw x z n fb c =>
    have hy : y = 15 := by
      by_contra hy
      exact hne (by rw [State.reg_advance, State.reg_setFlag, if_neg hy, State.reg_setFb])
    exact .inr (.inr (.inr (.inr ⟨hy, .inr ⟨x, z, n, rfl⟩⟩)))
  | _ => exact absurd rfl hne

theorem Effect.i_ne (h : Effect s i t) (hne : t.i ≠ s.i) : WritesIndex i := by
  cases h with
  | writeIndex hi => exact hi
  | _ => exact absurd rfl hne

theorem Effect.stack_ne (h : Effect s i t) (hne : t.stack ≠ s.stack) : ∃ nnn, i = .call nnn := by
  cases h with
  | call => exact ⟨_, rfl⟩
  | _ => exact absurd rfl hne

theorem Effect.sp_ne (h : Effect s i t) (hne : t.sp ≠ s.sp) : i = .ret ∨ ∃ nnn, i = .call nnn := by
  cases h with
  | ret => exact .inl rfl
  | call => exact .inr ⟨_, rfl⟩
  | _ => exact absurd rfl hne

theorem Effect.dt_ne (h : Effect s i t) (hne : t.dt ≠ s.dt) : ∃ x, i = .ldDtVx x := by
  cases h with
  | writeDt x => exact ⟨x, rfl⟩
  | _ => exact absurd rfl hne

theorem Effect.st_ne (h : Effect s i t) (hne : t.st ≠ s.st) : ∃ x, i = .ldStVx x := by
  cases h with
  | writeSt x => exact ⟨x, rfl⟩
  | _ => exact absurd rfl hne

theorem Effect.fb_ne (h : Effect s i t) (hne : t.fb ≠ s.fb) : i = .cls ∨ ∃ x y n, i = .drw x y n := by
  cases h with
  | clear => exact .inl rfl
  | draw x y n => exact .inr ⟨x, y, n, rfl⟩
  | _ => exact absurd rfl hne

theorem Effect.draws_ne (h : Effect s i t) (hne : t.draws ≠ s.draws) : ∃ x kk, i = .rnd x kk := by
  cases h with
  | random x kk => exact ⟨x, kk, rfl⟩
  | _ => exact absurd rfl hne

theorem Effect.mem_ne (h : Effect s i t) (hne : t.mem ≠ s.mem) : (∃ x, i = .ldBcd x) ∨ ∃ x, i = .dump x := by
  cases h with
  | store hi =>
    obtain ⟨x, ⟨hx, -⟩ | ⟨hx, -⟩⟩ := hi
    · exact .inl ⟨x, hx⟩
    · exact .inr ⟨x, hx⟩
  | _ => exact absurd rfl hne

theorem FaultOf.instr {r : FaultRecord} (h : FaultOf s i r) :
    i = .ret ∨ (∃ nnn, i = .call nnn) ∨ (∃ x y n, i = .drw x y n) ∨ ∃ x, i = .ldBcd x ∨ i = .dump x ∨ i = .load x := by
  cases h with
  | underflow => exact .inl rfl
  | overflow => exact .inr (.inl ⟨_, rfl⟩)
  | drwRange => exact .inr (.inr (.inl ⟨_, _, _, rfl⟩))
  | storeRange hi | storeReadonly hi =>
    obtain ⟨x, ⟨hx, -⟩ | ⟨hx, -⟩⟩ := hi
    · exact .inr (.inr (.inr ⟨x, .inl hx⟩))
    · exact .inr (.inr (.inr ⟨x, .inr (.inl hx)⟩))
  | loadRange => exact .inr (.inr (.inr ⟨_, .inr (.inr rfl)⟩))

theorem Effect.exists_faultOf (h : Effect s i t) (hne : t.runState ≠ s.runState) : ∃ r, FaultOf s i r := by
  cases h with
  | fault hf => exact ⟨_, hf⟩
  | _ => exact absurd rfl hne

end

/-- Settles O53: the lemmas above, part by part; the register clause only groups the writers differently. -/
theorem onlyTheNamedInstructionsWrite : Obligations.OnlyTheNamedInstructionsWrite := by
  intro i s t ht
  have h := effect_of_exec ht
  refine ⟨h.keys, h.schedule, fun y hne => ?reg, h.i_ne, h.stack_ne, h.sp_ne, h.dt_ne, h.st_ne, h.fb_ne, h.draws_ne,
    h.mem_ne, fun hne => ?runState⟩
  case reg =>
    rcases h.reg_ne hne with (⟨kk, hi⟩ | ⟨z, hi⟩ | hi | hi) | ⟨z, hi⟩ | ⟨kk, hi⟩ | hi | hi
    · exact .inl ⟨kk, hi.imp_right .inl⟩
    · exact .inr (.inl ⟨z, by tauto⟩)
    · exact .inr (.inr (.inl hi))
    · exact .inr (.inr (.inr (.inl hi)))
    · exact .inr (.inl ⟨z, by tauto⟩)
    · exact .inl ⟨kk, .inr (.inr hi)⟩
    · exact .inr (.inr (.inr (.inr (.inl hi))))
    · exact .inr (.inr (.inr (.inr (.inr hi))))
  case runState =>
    obtain ⟨r, hf⟩ := h.exists_faultOf hne
    exact hf.instr

/-- Settles O54: VF is the register F of O53, and LD VF,[I] is the one LD Vx,[I] that reaches it. -/
theorem onlyTheNamedInstructionsWriteVF : Obligations.OnlyTheNamedInstructionsWriteVF := by
  intro i s t ht hne
  obtain ⟨-, -, hreg, -⟩ := onlyTheNamedInstructionsWrite i s t ht
  rcases hreg 15 hne with hi | ⟨z, hi⟩ | hi | hi | ⟨x, hx, hi⟩ | ⟨-, ⟨x, z, hi⟩ | hi⟩
  · exact .inr (.inr (.inl hi))
  · grind
  · exact .inr (.inr (.inr (.inr (.inl hi))))
  · exact .inr (.inr (.inr (.inr (.inr (.inl hi)))))
  · have hF : x = 15 := le_antisymm (Fin.le_last x) hx
    exact .inr (.inr (.inr (.inr (.inr (.inr (hF ▸ hi))))))
  · exact .inl ⟨x, z, by tauto⟩
  · exact .inr (.inl hi)

/-- Settles O55: only a skip, a transfer, a wait or a fault does without the advance by 2. -/
theorem pcMovesAsTheInstructionSays : Obligations.PcMovesAsTheInstructionSays := by
  intro i s t ht hrun hrun'
  cases effect_of_exec ht with
  | fault => cases hrun'
  | wait => exact .inr (.inr (.inr (.inr ⟨⟨_, rfl⟩, rfl⟩)))
  | skip hi c =>
    cases c with
    | false => exact .inl rfl
    | true => exact .inr (.inl ⟨rfl, hi⟩)
  | jump nnn => exact .inr (.inr (.inr (.inl ⟨nnn, .inl rfl⟩)))
  | call => exact .inr (.inr (.inr (.inl ⟨_, .inr (.inl rfl)⟩)))
  | jumpV0 nnn => exact .inr (.inr (.inr (.inl ⟨nnn, .inr (.inr rfl)⟩)))
  | ret => exact .inr (.inr (.inl rfl))
  | _ => exact .inl rfl

end Sys2Proof.Claims
end

section
/-! PROOFS. The host's transactions (60_exceptions.md R224 to R229; 70_reset_and_hazards.md R250, R251): RESET, TICK,
KEY, LOAD and FB_READ each write what their rule names. -/

open Sys2Proof Sys2Proof.Machine

namespace Sys2Proof.Claims

/-! ### RESET -/

theorem resetByte_fontBase_add {k : Nat} (hk : k < 80) : resetByte (fontBase + k) = fontData.getD k 0 := by
  have hin : inFont (fontBase + k) = true := (inFont_iff _).mpr ⟨Nat.le_add_right _ _, by omega⟩
  rw [resetByte, if_pos hin, Nat.add_sub_cancel_left]

theorem resetByte_outside_font {a : Nat} (ha : a < fontBase ∨ fontBase + 80 ≤ a) : resetByte a = 0 := by
  have hout : ¬inFont a = true := by rw [inFont_iff]; omega
  rw [resetByte, if_neg hout]

theorem reset_atReset : AtReset State.reset := by
  refine ⟨fun x => ?regs, rfl, rfl, fun j => ?stack, rfl, rfl, rfl, fun k => ?keys, Framebuffer.pixel_blank,
    fun k hk => resetByte_fontBase_add hk, fun a _ ha => resetByte_outside_font ha, rfl⟩
  case regs => exact Vector.getElem_replicate x.isLt
  case stack => exact Vector.getElem_replicate j.isLt
  case keys => exact Vector.getElem_replicate k.isLt

/-- Settles O1: RESET answers the reset state, but for the draws and the schedule, of which R250 says nothing. -/
theorem resetSetsEveryElement : Obligations.ResetSetsEveryElement := by
  intro s ts hsch
  exact ⟨(s.setSchedule ts).resetCore, step_cons hsch, reset_atReset, rfl⟩

/-- Settles O2: construction is RESET (R251). -/
theorem constructedStateIsReset : Obligations.ConstructedStateIsReset := reset_atReset

/-! ### TICK, KEY, FB_READ -/

theorem sound_iff (s : State) : s.sound = true ↔ s.st ≠ 0 := bne_iff_ne

/-- Settles O23: TICK writes the two timers, and the sound output is read off the new ST. -/
theorem tickCountsBothTimersDown : Obligations.TickCountsBothTimersDown := by
  intro s ts hsch
  have hst : (countDown s.st).toNat = s.st.toNat - 1 := toNat_countDown s.st
  refine ⟨(s.setSchedule ts).tick, step_cons hsch, toNat_countDown s.dt, hst, ?sound, fun _ => rfl, rfl, rfl,
    ⟨rfl, rfl⟩, rfl, fun _ => rfl, rfl, rfl, rfl, rfl⟩
  case sound =>
    rw [sound_iff, ne_eq, ← BitVec.toNat_inj]
    change ¬(countDown s.st).toNat = 0 ↔ _
    omega

/-- Settles O24: KEY writes one entry of the latch. -/
theorem keyWritesOneEntryOfTheLatch : Obligations.KeyWritesOneEntryOfTheLatch := by
  intro s k p ts hsch
  refine ⟨(s.setSchedule ts).setKey k p, step_cons hsch, ?key, fun j hj => ?others, fun _ => rfl, rfl, rfl, ⟨rfl, rfl⟩,
    ⟨rfl, rfl⟩, rfl, fun _ => rfl, rfl, rfl, rfl⟩
  case key => rw [State.pressed_setKey, if_pos rfl]
  case others => rw [State.pressed_setKey, if_neg hj, State.pressed_setSchedule]

/-- Settles O59: the transaction leaves the state, and the reply is read off it. -/
theorem fbReadAnswersTheFramebuffer : Obligations.FbReadAnswersTheFramebuffer :=
  fun _ _ hsch => ⟨step_cons hsch, rfl⟩

/-! ### LOAD -/

/-- Settles O25: a LOAD that fits writes its bytes to consecutive addresses from 0x200 on. -/
theorem loadCopiesTheImage : Obligations.LoadCopiesTheImage := by
  intro s image ts hsch hlen hwf
  have hfit : 0x200 + image.length ≤ Config.memSize := by simp only [Config.memSize]; omega
  refine ⟨(s.setSchedule ts).setMem (s.mem.writeBytes 0x200 image), ?step, if_neg (Nat.not_lt.mpr hlen), ?image,
    ?outside, fun _ => rfl, rfl, rfl, ⟨rfl, rfl⟩, ⟨rfl, rfl⟩, rfl, rfl, rfl, rfl, rfl⟩
  case step =>
    rw [step_cons hsch, State.transact, loadImage_of_fits _ hlen, State.setSchedule_mem]
  case image => exact fun k hk => Memory.read_writeBytes_in hwf hfit k hk
  case outside => exact fun a ha => Memory.read_writeBytes_out hwf hfit a ha

/-- Settles O26: the length is checked before any byte is written. -/
theorem oversizedLoadIsRejected : Obligations.OversizedLoadIsRejected := by
  intro s image ts hsch hlen
  refine ⟨?_, if_pos hlen⟩
  rw [step_cons hsch, State.transact, loadImage_of_oversized _ hlen]
  rfl

end Sys2Proof.Claims
end

section
/-! PROOFS. The transfers of control of 40_control_flow.md (R100 to R102, R107): RET, JP, CALL and JP V0 write pc, RET
and CALL the stack pointer too, and CALL one stack entry. -/

open Sys2Proof Sys2Proof.Machine

namespace Sys2Proof.Claims

/-- Settles O28: JP writes pc alone. -/
theorem jpSetsPc : Obligations.JpSetsPc :=
  fun nnn s => ⟨_, exec_jp s nnn, toNat_addrWord nnn, keepsAllButPc_setPc s _⟩

/-- Settles O31: the sum of a byte and a 12-bit address does not wrap. -/
theorem jpV0AddsV0Unmasked : Obligations.JpV0AddsV0Unmasked :=
  fun nnn s => ⟨_, exec_jpV0 s nnn, toNat_byteWord_add_addrWord _ nnn, keepsAllButPc_setPc s _⟩

/-- Settles O27: RET writes sp and pc, the latter with the entry below sp. -/
theorem retPopsOrUnderflows : Obligations.RetPopsOrUnderflows := by
  intro s
  refine ⟨fun hsp => exec_ret_of_empty s hsp, fun j hsp => ?_⟩
  have hdec : s.sp - 1 = j.val := by omega
  obtain ⟨hregs, hi, -, htimers, hfb, hmem, hrest⟩ := keepsAllButPc_setPc s.pop s.top
  refine ⟨s.pop.setPc s.top, exec_ret_of_ne_zero s (by omega), hdec, ?pc, rfl, hregs, hi, htimers, hfb, hmem, hrest⟩
  case pc =>
    rw [State.setPc_pc, s.top_eq (by omega)]
    simp only [hdec]

/-- Settles O29: CALL writes the entry at sp, sp and pc. -/
theorem callPushesOrOverflows : Obligations.CallPushesOrOverflows := by
  intro nnn s
  refine ⟨fun hsp => ?full, fun j hsp => ?_⟩
  case full =>
    have h := exec_call_of_full s nnn (by omega)
    rwa [hsp] at h
  obtain ⟨hregs, hi, -, htimers, hfb, hmem, hrest⟩ := keepsAllButPc_setPc (s.push (s.pc + 2)) (addrWord nnn)
  have hstack (k : Fin 16) :
      ((s.push (s.pc + 2)).setPc (addrWord nnn)).stack[k.val] = if s.sp = k.val then s.pc + 2 else s.stack[k.val] :=
    s.push_stack_getElem (s.pc + 2) k.val k.isLt
  refine ⟨(s.push (s.pc + 2)).setPc (addrWord nnn), exec_call_of_lt s nnn (by omega), toNat_addrWord nnn,
    congrArg (· + 1) hsp, ?pushed, fun k hk => ?others, hregs, hi, htimers, hfb, hmem, hrest⟩
  case pushed => rw [hstack j, if_pos hsp]
  case others => rw [hstack k, if_neg (by rw [hsp]; exact fun h => hk (Fin.ext h.symm))]

/-- Settles O56: RET reads the entry that CALL pushed. -/
theorem retResumesAfterCall : Obligations.RetResumesAfterCall := by
  intro nnn s t u v hlt hcall husp hustack hret
  cases (exec_call_of_lt s nnn hlt).symm.trans hcall
  have husp' : u.sp = s.sp + 1 := husp
  have htop : u.top = (s.push (s.pc + 2)).top := by
    rw [State.top, State.top, husp, hustack]; rfl
  cases (exec_ret_of_ne_zero u (by omega)).symm.trans hret
  exact ⟨htop.trans (s.top_push (s.pc + 2) hlt), by rw [State.setPc_sp, State.pop_sp]; omega⟩

end Sys2Proof.Claims
end

section
/-! PROOFS. Copy, logic, subtraction, shift and random of 41_alu.md (R122 to R131): each writes Vx, or Vx and then VF,
by the two shapes of result of the loads and additions. -/

open Sys2Proof Sys2Proof.Machine

namespace Sys2Proof.Claims

/-- Settles O33: the four write Vx alone. -/
theorem copyAndLogicWriteOnlyVx : Obligations.CopyAndLogicWriteOnlyVx := fun x y s =>
  ⟨completes_of_setReg_advance (exec_ldReg s x y), completes_of_setReg_advance (exec_orReg s x y),
    completes_of_setReg_advance (exec_andReg s x y), completes_of_setReg_advance (exec_xorReg s x y)⟩

theorem noBorrowFlag_eq_flagOf (a b : Byte) : noBorrowFlag a b = flagOf (b.toNat ≤ a.toNat) :=
  flagByte_decide (b.toNat ≤ a.toNat)

/-- The difference of two bytes is their difference modulo 256. -/
theorem toNat_sub_byte (a b : Byte) : (a - b).toNat = (256 + a.toNat - b.toNat) % 256 := by
  rw [BitVec.toNat_sub]; omega

/-- Settles O35: the difference goes to Vx, then the flag of the old operands to VF. -/
theorem subtractionsWriteDifferenceThenNoBorrow : Obligations.SubtractionsWriteDifferenceThenNoBorrow := by
  intro x y s
  refine ⟨?sub, ?subn⟩
  case sub =>
    obtain ⟨t, hexec, hvf, hvx, hframe⟩ := completes_of_setRegThenFlag_advance (exec_subReg s x y)
    exact ⟨t, hexec, hvf.trans (noBorrowFlag_eq_flagOf _ _), fun hx => by rw [hvx hx, toNat_sub_byte], hframe⟩
  case subn =>
    obtain ⟨t, hexec, hvf, hvx, hframe⟩ := completes_of_setRegThenFlag_advance (exec_subnReg s x y)
    exact ⟨t, hexec, hvf.trans (noBorrowFlag_eq_flagOf _ _), fun hx => by rw [hvx hx, toNat_sub_byte], hframe⟩

theorem toNat_shrFlag (a : Byte) : (shrFlag a).toNat = a.toNat % 2 := by
  rw [shrFlag, flagByte, BitVec.getLsbD, Nat.testBit_zero]
  rcases Nat.mod_two_eq_zero_or_one a.toNat with h | h <;> simp [h]

theorem toNat_shlFlag (a : Byte) : (shlFlag a).toNat = a.toNat / 128 := by
  have hlt : a.toNat / 128 < 2 := by omega
  rw [shlFlag, flagByte, BitVec.getLsbD, Nat.testBit_eq_decide_div_mod_eq]
  rcases Nat.lt_succ_iff_lt_or_eq.mp hlt with h | h
  · simp [show a.toNat / 128 = 0 by omega]
  · simp [h]

/-- Settles O36: the shifted byte goes to Vx, then the bit shifted out to VF. -/
theorem shiftsWriteTheBitShiftedOut : Obligations.ShiftsWriteTheBitShiftedOut := by
  intro x y s
  refine ⟨?shr, ?shl⟩
  case shr =>
    obtain ⟨t, hexec, hvf, hvx, hframe⟩ := completes_of_setRegThenFlag_advance (exec_shr s x y)
    refine ⟨t, hexec, by rw [hvf, toNat_shrFlag], fun hx => ?_, hframe⟩
    rw [hvx hx, BitVec.toNat_ushiftRight, Nat.shiftRight_one]
  case shl =>
    obtain ⟨t, hexec, hvf, hvx, hframe⟩ := completes_of_setRegThenFlag_advance (exec_shl s x y)
    refine ⟨t, hexec, by rw [hvf, toNat_shlFlag], fun hx => ?_, hframe⟩
    rw [hvx hx, BitVec.toNat_shiftLeft, Nat.shiftLeft_eq]

/-- Settles O37: RND is a write of Vx in the state whose source has moved on by one byte. -/
theorem rndMasksOneFreeByte : Obligations.RndMasksOneFreeByte := by
  intro x kk s
  refine ⟨_, exec_rnd s x kk, ?vx, rfl, fun y hy => ?others, rfl, rfl, ⟨rfl, rfl⟩, ⟨rfl, rfl⟩, rfl, fun _ => rfl, rfl,
    rfl, rfl⟩
  case vx => rw [State.reg_advance, State.reg_setReg_same, State.nextRandom]
  case others => rw [State.reg_advance, State.reg_setReg_other _ x y _ hy, State.reg_consumeRandom]

end Sys2Proof.Claims
end

section
/-! PROOFS. The index and memory instructions (42_index_memory.md R151 to R154; 20_memory.md R53, R61, R68): I, the
ranges through I, the stores and the load. -/

open Sys2Proof Sys2Proof.Machine

namespace Sys2Proof.Claims

/-! ### ADD I,Vx; LD F,Vx -/

/-- Settles O39: both write I, modulo the width of I. -/
theorem indexAddAndFontAddress : Obligations.IndexAddAndFontAddress := by
  intro x s
  refine ⟨?add, ?font⟩
  case add =>
    obtain ⟨t, hexec, hindex, hframe⟩ := completes_of_setI_advance (exec_addI s x)
    have hbyte : (byteWord (s.reg x)).toNat = (s.reg x).toNat := BitVec.toNat_setWidth_of_le (by decide)
    exact ⟨t, hexec, by rw [hindex, BitVec.toNat_add, hbyte], hframe⟩
  case font =>
    obtain ⟨t, hexec, hindex, hframe⟩ := completes_of_setI_advance (exec_ldFont s x)
    exact ⟨t, hexec, by rw [hindex, fontAddr, BitVec.toNat_ofNat], hframe⟩

/-! ### The store through I, case by case -/

section
variable {s : State} {w : Word} {bytes : List Byte}

theorem storeAtI_of_past (h : 0x1000 < s.base + bytes.length) :
    s.storeAtI w bytes = s.raise (.memRange s.pc w s.base bytes.length) := by
  rcases s.storeAtI_cases w bytes with ⟨-, heq⟩ | ⟨a, hfit, -⟩ | ⟨hfit, -⟩
  · exact heq
  all_goals omega

/-- Two addresses that are each the lowest of the access in the font region are one. -/
theorem storeAtI_of_font {a : Nat} (hfit : s.base + bytes.length ≤ 0x1000) (hle : s.base ≤ a)
    (hlt : a < s.base + bytes.length) (ha : inFont a = true) (hleast : ∀ b, s.base ≤ b → b < a → inFont b = false) :
    s.storeAtI w bytes = s.raise (.memReadonly s.pc w a) := by
  rcases s.storeAtI_cases w bytes with ⟨hpast, -⟩ | ⟨c, -, hle', -, hc, hleast', heq⟩ | ⟨-, hfont, -⟩
  · omega
  · have hca : c = a := by
      rcases Nat.lt_trichotomy c a with h | h | h
      · simp [hleast c hle' h] at hc
      · exact h
      · simp [hleast' a hle h] at ha
    rw [heq, hca]
  · simp [hfont a hle hlt] at ha

theorem storeAtI_of_fits (hfit : s.base + bytes.length ≤ 0x1000)
    (hfont : ∀ a, s.base ≤ a → a < s.base + bytes.length → inFont a = false) :
    s.storeAtI w bytes = (s.setMem (s.mem.writeBytes s.base bytes)).advance := by
  rcases s.storeAtI_cases w bytes with ⟨hpast, -⟩ | ⟨a, -, hle, hlt, ha, -⟩ | ⟨-, -, heq⟩
  · omega
  · simp [hfont a hle hlt] at ha
  · exact heq

end

/-- An instruction that stores `bytes` through I, in memory and outside the font region: the bytes stand at the base and
every other byte stays. -/
theorem completes_of_storeAtI {i : Instr} {s : State} {w : Word} {bytes : List Byte}
    (hexec : exec i s = .next (s.storeAtI w bytes)) (hwf : s.mem.wf) (hfit : s.base + bytes.length ≤ 0x1000)
    (hfont : ∀ a, s.base ≤ a → a < s.base + bytes.length → inFont a = false) :
    Completes i s fun t =>
      (∀ k < bytes.length, t.mem.read (s.base + k) = bytes.getD k 0) ∧
        (∀ a, a < s.base ∨ s.base + bytes.length ≤ a → t.mem.read a = s.mem.read a) ∧ t.pc = s.pc + 2 ∧
        KeepsAllButMemoryPc s t := by
  rw [storeAtI_of_fits hfit hfont] at hexec
  exact ⟨_, hexec, fun k hk => Memory.read_writeBytes_in hwf hfit k hk,
    fun a ha => Memory.read_writeBytes_out hwf hfit a ha, rfl, fun _ => rfl, rfl, ⟨rfl, rfl⟩, ⟨rfl, rfl⟩, rfl,
    ⟨rfl, rfl, rfl, rfl⟩⟩

/-! ### LD B,Vx; LD [I],Vx; LD Vx,[I] -/

/-- Settles O40: the digits of a byte fit a byte each. -/
theorem bcdStoresThreeDigits : Obligations.BcdStoresThreeDigits := by
  intro x s hwf hfit hfont
  obtain ⟨t, hexec, hbytes, hout, hframe⟩ := completes_of_storeAtI (exec_ldBcd s x) hwf hfit hfont
  rw [length_bcdDigits] at hbytes
  refine ⟨t, hexec, ?hundreds, ?tens, ?ones, hout, hframe⟩
  case hundreds =>
    rw [← Nat.add_zero s.base, hbytes 0 (by decide)]
    exact Nat.mod_eq_of_lt (by omega)
  case tens =>
    rw [hbytes 1 (by decide)]
    exact Nat.mod_eq_of_lt (by omega)
  case ones =>
    rw [hbytes 2 (by decide)]
    exact Nat.mod_eq_of_lt (by omega)

/-- Settles O41: the bytes stored are V0 to Vx in order. -/
theorem dumpStoresTheRegisters : Obligations.DumpStoresTheRegisters := by
  intro x s hwf hfit hfont
  have hlen := s.length_regsUpTo x
  obtain ⟨t, hexec, hbytes, hout, hframe⟩ :=
    completes_of_storeAtI (exec_dump s x) hwf (by rwa [hlen]) (by rwa [hlen])
  rw [hlen] at hbytes hout
  exact ⟨t, hexec, fun y hy => by rw [hbytes y.val (by omega), s.getD_regsUpTo x y hy], hout, hframe⟩

/-- Settles O42: the registers up to Vx take the bytes read. -/
theorem loadReadsTheRegisters : Obligations.LoadReadsTheRegisters := by
  intro x s hfit
  refine ⟨_, exec_load_of_fits s x hfit, fun y hy => ?loaded, fun y hy => ?above, rfl,
    keepsAllButRegsPc_setRegs_advance s _⟩
  case loaded => rw [State.reg_advance, State.reg_setRegsFrom_readBytes, if_pos hy]
  case above => rw [State.reg_advance, State.reg_setRegsFrom_readBytes, if_neg (Nat.not_le.mpr hy)]

/-! ### The faults of the ranges through I -/

theorem base_eq (s : State) : s.base = s.i.toNat % 4096 := by
  rw [State.base, BitVec.toNat_and]
  exact Nat.and_two_pow_sub_one_eq_mod s.i.toNat 12

/-- Settles O43: the range check comes first in each of the four. -/
theorem rangesPastTheTopFault : Obligations.RangesPastTheTopFault := by
  intro x y n s
  refine ⟨base_eq s, exec_drw_of_past s x y n, fun h => ?bcd, fun h => ⟨?dump, exec_load_of_past s x h⟩⟩
  case bcd => exact congrArg Host.Outcome.next (storeAtI_of_past h)
  case dump =>
    have hlen := s.length_regsUpTo x
    rw [Raises, exec_dump, storeAtI_of_past (by rwa [hlen]), hlen]
    rfl

/-- Settles O44: the range fits, so the font check decides. -/
theorem fontWritesFault : Obligations.FontWritesFault := by
  intro x a s hle ha hleast
  refine ⟨fun hlt hfit => ?bcd, fun hlt hfit => ?dump⟩
  case bcd => exact congrArg Host.Outcome.next (storeAtI_of_font hfit hle hlt ha hleast)
  case dump =>
    have hlen := s.length_regsUpTo x
    exact congrArg Host.Outcome.next (storeAtI_of_font (by rwa [hlen]) hle (by rwa [hlen]) ha hleast)

/-! ### A stored instruction is fetched -/

/-- Settles O57: after the store pc is the base, where the word is V0, V1. -/
theorem storedBytesAreFetched : Obligations.StoredBytesAreFetched := by
  intro x s t hwf hx hrun hsch hfit hfont hpc ht i hd
  obtain ⟨t', ht', hbytes, -, hpc', hkeeps⟩ := dumpStoresTheRegisters x s hwf hfit hfont
  cases ht'.symm.trans ht
  obtain ⟨-, -, -, -, -, -, hrunState, -, hschedule⟩ := hkeeps
  have hbase : t.pc.toNat = s.base := by rw [hpc', hpc]
  have h0 : t.mem.read s.base = s.reg 0 := hbytes 0 (Nat.zero_le _)
  have h1 : t.mem.read (s.base + 1) = s.reg 1 := hbytes 1 hx
  have hword : decode (wordAtPc t) = some i := by rw [wordAtPc, hbase, h0, h1, hd]
  exact stepRunsTheDecodedInstruction t t i (stepIsNext_self (hschedule.trans hsch)) (hrunState.trans hrun) (by omega)
    hword

end Sys2Proof.Claims
end

section
/-! PROOFS. DRW of 43_display.md (R171): the closed form of what is drawn gives each pixel and the collision, and a
sprite drawn twice at one place is gone again. -/

open Sys2Proof Sys2Proof.Machine

namespace Sys2Proof.Claims

theorem flagByte_eq_one {b : Bool} (h : b = true) : flagByte b = 1 := if_pos h

theorem flagByte_eq_zero {b : Bool} (h : ¬b = true) : flagByte b = 0 := if_neg h

/-! ### What one draw does -/

theorem completes_drw (x y : Idx) (n : Nat) (s : State) (hfit : s.base + n ≤ 0x1000) :
    Completes (.drw x y n) s fun t =>
      t.fb = (s.drawn x y n).fb ∧ t.reg 15 = flagByte (s.drawn x y n).collision ∧ t.pc = s.pc + 2 ∧
        KeepsAllButPixelsFlagPc s t := by
  refine ⟨_, exec_drw_of_fits s x y n hfit, rfl, ?flag, rfl, fun z hz => ?others, rfl, ⟨rfl, rfl⟩, ⟨rfl, rfl⟩,
    fun _ => rfl, ⟨rfl, rfl, rfl, rfl⟩⟩
  case flag => rw [State.reg_advance, State.reg_setFlag, if_pos rfl]
  case others => rw [State.reg_advance, State.reg_setFlag, if_neg hz, State.reg_setFb]

/-- Settles O46: the closed forms of the pixels drawn and of the collision. -/
theorem drwXorsTheSprite : Obligations.DrwXorsTheSprite := by
  intro x y n s hn hfit bit px py
  obtain ⟨t, hexec, hfb, hflag, hframe⟩ := completes_drw x y n s hfit
  have hcollision := s.collision_drawn x y n (by omega)
  refine ⟨t, hexec, ?on, ?off, ?hit, ?miss, hframe⟩
  case on =>
    intro r hr c hc
    rw [hfb]
    exact s.pixel_drawn_on x y n r c (by omega) hr hc
  case off =>
    intro a b h
    rw [hfb]
    exact s.pixel_drawn_off x y n a b h
  case hit =>
    intro h
    rw [hflag]
    exact flagByte_eq_one (hcollision.mpr h)
  case miss =>
    intro h
    rw [hflag]
    refine flagByte_eq_zero fun hc => ?_
    obtain ⟨r, hr, c, hc, hbit, hpixel⟩ := hcollision.mp hc
    exact Bool.false_ne_true ((h r hr c hc hbit).symm.trans hpixel)

/-! ### Two draws of one sprite -/

/-- `t` draws the sprite `s` draws, at the same place. -/
def SameSprite (x y : Idx) (s t : State) : Prop :=
  t.reg x = s.reg x ∧ t.reg y = s.reg y ∧ t.base = s.base ∧ KeepsMemory s t

theorem sameSprite_of_keeps {x y : Idx} {s t : State} (hx : x ≠ 15) (hy : y ≠ 15) (h : KeepsAllButPixelsFlagPc s t) :
    SameSprite x y s t := by
  obtain ⟨hregs, hi, -, -, hmem, -⟩ := h
  exact ⟨hregs x hx, hregs y hy, by rw [State.base, State.base, hi], hmem⟩

section
variable {x y : Idx} {n : Nat} {s t : State} (hn : n < 16) (hsame : SameSprite x y s t)
  (hfb : t.fb = (s.drawn x y n).fb)
include hn hsame hfb

/-- A pixel under the sprite is XORed twice with one bit, and another pixel is left twice. -/
theorem fb_drawn_twice : (t.drawn x y n).fb = s.fb := by
  obtain ⟨hx, hy, hbase, hmem⟩ := hsame
  refine Framebuffer.ext_pixel fun a b => ?_
  by_cases hab : ∃ r < n, ∃ c < 8, a = Fin.ofNat 64 (startColumn (s.reg x) + c) ∧
      b = Fin.ofNat 32 (startRow (s.reg y) + r)
  · obtain ⟨r, hr, c, hc, rfl, rfl⟩ := hab
    have hfirst := s.pixel_drawn_on x y n r c (by omega) hr hc
    have hsecond := t.pixel_drawn_on x y n r c (by omega) hr hc
    rw [hx, hy, hbase, hmem, hfb, hfirst] at hsecond
    rw [hsecond, Bool.xor_assoc, Bool.xor_self, Bool.xor_false]
  · have hoff : ∀ r < n, ∀ c < 8, ¬(a = Fin.ofNat 64 (startColumn (s.reg x) + c) ∧
        b = Fin.ofNat 32 (startRow (s.reg y) + r)) := fun r hr c hc h => hab ⟨r, hr, c, hc, h⟩
    rw [t.pixel_drawn_off x y n a b fun r hr c hc _ => by rw [hx, hy]; exact hoff r hr c hc, hfb,
      s.pixel_drawn_off x y n a b fun r hr c hc _ => hoff r hr c hc]

/-- On a clear framebuffer the first draw turns the sprite's 1 bits on, and the second meets them. -/
theorem collision_drawn_twice (hclear : ∀ a b, s.fb.pixel a b = false) (hrow : ∃ r < n, s.mem.read (s.base + r) ≠ 0) :
    (t.drawn x y n).collision = true := by
  obtain ⟨hx, hy, hbase, hmem⟩ := hsame
  obtain ⟨r, hr, hne⟩ := hrow
  obtain ⟨c, hc, hbit⟩ : ∃ c < 8, (s.mem.read (s.base + r)).getLsbD (7 - c) = true := by
    by_contra hall
    refine hne (BitVec.eq_of_getLsbD_eq fun j hj => ?_)
    have h := fun hb => hall ⟨7 - j, by omega, hb⟩
    rw [show 7 - (7 - j) = j by omega] at h
    simpa using h
  refine (t.collision_drawn x y n (by omega)).mpr ⟨r, hr, c, hc, ?_, ?_⟩
  · rw [hbase, hmem, hbit]
  · rw [hx, hy, hfb, s.pixel_drawn_on x y n r c (by omega) hr hc, hclear, hbit]; rfl

end

/-- Settles O47: VF is neither operand, so the second draw is of the same sprite at the same place. -/
theorem drawingTwiceErases : Obligations.DrawingTwiceErases := by
  intro x y n s t u hn hx hy hfit ht hu
  obtain ⟨t', ht', hfb, hflag, -, hkeeps⟩ := completes_drw x y n s hfit
  cases ht'.symm.trans ht
  have hsame := sameSprite_of_keeps hx hy hkeeps
  have ⟨_, _, hbase, _⟩ := hsame
  obtain ⟨u', hu', hfb', hflag', -⟩ := completes_drw x y n t (by rwa [hbase])
  cases hu'.symm.trans hu
  refine ⟨by rw [hfb', fb_drawn_twice hn hsame hfb], fun hclear => ⟨?first, fun hrow => ?second⟩⟩
  case first =>
    rw [hflag]
    refine flagByte_eq_zero fun hcollision => ?_
    obtain ⟨r, -, c, -, -, hpixel⟩ := (s.collision_drawn x y n (by omega)).mp hcollision
    simp [hclear] at hpixel
  case second =>
    rw [hflag']
    exact flagByte_eq_one (collision_drawn_twice hn hsame hfb hclear hrow)

end Sys2Proof.Claims
end

section
/-! PROOFS. The keypad and the sound timer (44_keypad_timer.md R190 to R193, R197; 60_exceptions.md R231). -/

open Sys2Proof Sys2Proof.Machine

namespace Sys2Proof.Claims

/-! ### SKP and SKNP -/

/-- The key is the low nibble of the byte (R190). -/
theorem keyIndex_eq {b : Byte} {k : Idx} (h : k.val = b.toNat % 16) : keyIndex b = k := by
  have hmask : (b &&& 0x0F).toNat = b.toNat % 16 := by
    rw [BitVec.toNat_and]
    exact Nat.and_two_pow_sub_one_eq_mod b.toNat 4
  apply Fin.ext
  rw [keyIndex, Fin.val_ofNat, hmask, Nat.mod_mod, h]

/-- Settles O48: the two skips are `skipIf` of the key and of its negation. -/
theorem keySkipsTestTheLowNibble : Obligations.KeySkipsTestTheLowNibble := by
  intro x k s hk
  have hskp := exec_skp s x
  have hsknp := exec_sknp s x
  rw [keyIndex_eq hk] at hskp hsknp
  exact ⟨completes_of_skipIf_iff hskp Iff.rfl, completes_of_skipIf_iff_not hsknp (by simp)⟩

/-! ### LD Vx,K -/

theorem leastPressed_eq_some_of {s : State} {k : Idx} (hk : s.pressed k = true)
    (hleast : ∀ j, j < k → s.pressed j = false) : s.leastPressed = some k := by
  rcases h : s.leastPressed with _ | j
  · have := State.leastPressed_eq_none.mp h k
    simp [hk] at this
  · obtain ⟨hj, hleast'⟩ := State.leastPressed_eq_some h
    rcases lt_trichotomy j k with hlt | heq | hlt
    · simp [hleast j hlt] at hj
    · rw [heq]
    · simp [hleast' k hlt] at hk

/-- Settles O49: the key found is the least one pressed. -/
theorem waitForKeyStoresTheLeastKey : Obligations.WaitForKeyStoresTheLeastKey := by
  intro x k s hk hleast
  obtain ⟨t, hexec, hvx, hframe⟩ :=
    completes_of_setReg_advance (exec_ldVxKey_of_some s x (leastPressed_eq_some_of hk hleast))
  refine ⟨t, hexec, ?_, hframe⟩
  rw [hvx, BitVec.toNat_ofNat]
  omega

/-! ### LD ST,Vx -/

/-- Settles O52: SOUND is read off ST, and LD ST,Vx writes ST alone. -/
theorem soundTimerIsWritten : Obligations.SoundTimerIsWritten := by
  refine ⟨sound_iff, fun x s => ?_⟩
  obtain ⟨hregs, hi, hstack, ⟨hdt, -⟩, hfb, hmem, hrest⟩ :=
    keepsAllButPc_setPc (s.setSt (s.reg x)) ((s.setSt (s.reg x)).pc + 2)
  exact ⟨(s.setSt (s.reg x)).advance, exec_ldStVx s x, rfl, sound_iff _, hdt, rfl, hregs, hi, hstack, hfb, hmem, hrest⟩

end Sys2Proof.Claims
end
